-- ==== Sys2Proof/Word.lean ====
section
/-! DEFINITION. The word types of the device and the two named colours. -/

namespace Sys2Proof

/-- One byte lane of a register word (20_memory.md R73). -/
abbrev Byte := BitVec 8

/-- A register, a command word or an operand word: 32 bits (10_state.md R33). -/
abbrev Word := BitVec 32

/-- A pixel value: 16 bits, every value legal, compared bit for bit (10_state.md R43). -/
abbrev Color := BitVec 16

/-- The named colour BLACK (44_color_snapshot.md R250). -/
def BLACK : Color := 0x0000#16

/-- The named colour WHITE (44_color_snapshot.md R250). -/
def WHITE : Color := 0xFFFF#16

end Sys2Proof
end

