-- ==== Sys2Proof/Syntax.lean ====
section
/-! DEFINITION. The commands of the device, with their operands (30_encoding.md R102 and R103). -/

namespace Sys2Proof

/-- The two framebuffers a command can target (00_scope.md R11). -/
inductive Layer where
  | layer1
  | layer2
  deriving DecidableEq, Repr

/-- The orientation tag, in the order of its codes 0 to 3 (10_state.md R38). -/
inductive Orientation where
  | portrait
  | landscape
  | invertedPortrait
  | invertedLandscape
  deriving DecidableEq, Repr

/-- A signed two-dimensional point (00_scope.md R11). -/
structure Point where
  x : Int
  y : Int
  deriving DecidableEq, Repr

/-- One command with its operands, one constructor per row of spec/opcode_table.json, the operands in the assembler's
order (30_encoding.md R109). Coordinates, sizes and thicknesses are numbers here; `Instr.wellFormed` says which of
them a command word and its operand words can spell. -/
inductive Instr where
  /-- INIT (40_display.md R134). -/
  | init (width height : Nat) (orient : Orientation) (format : Nat)
  /-- CLEAR (40_display.md R140). -/
  | clear (color : Color)
  /-- CLEAR_LAYER (40_display.md R142). -/
  | clearLayer (layer : Layer) (color : Color)
  /-- GET_PIXEL (40_display.md R144). -/
  | getPixel (x y : Nat)
  /-- GET_PIXEL_LAYER (40_display.md R146). -/
  | getPixelLayer (layer : Layer) (x y : Nat)
  /-- SET_PIXEL (40_display.md R148). -/
  | setPixel (x y : Nat) (color : Color)
  /-- SET_PIXEL_LAYER (40_display.md R150). -/
  | setPixelLayer (layer : Layer) (x y : Nat) (color : Color)
  /-- DRAW_RECT (41_rectangle.md R177). -/
  | drawRect (x y : Int) (w h thick : Nat) (color : Color)
  /-- DRAW_RECT_LAYER (43_layer_adapter.md R231). -/
  | drawRectLayer (layer : Layer) (x y : Int) (w h thick : Nat) (color : Color)
  /-- DRAW_TRI (42_line_triangle.md R203). -/
  | drawTri (a b c : Point) (thick : Nat) (color : Color)
  /-- DRAW_TRI_LAYER (43_layer_adapter.md R232). -/
  | drawTriLayer (layer : Layer) (a b c : Point) (thick : Nat) (color : Color)
  deriving DecidableEq, Repr

/-- The five words the engine holds of an issued command (10_state.md R46): the command word and the values ARG0 to
ARG3 had at its issue. They are the instruction as the hardware stores it. -/
structure Latch where
  cw : Word
  a0 : Word
  a1 : Word
  a2 : Word
  a3 : Word
  deriving DecidableEq, Repr

end Sys2Proof
end

