-- ==== Sys2Proof/Decode.lean ====
section
/-! DEFINITION. From the latched words to a command, or to the reason why the word is illegal, and back
(30_encoding.md R101 to R108). -/

namespace Sys2Proof

/-! ## Fields -/

/-- `v[15:0]`. -/
def lo16 (v : Word) : BitVec 16 := v.extractLsb' 0 16

/-- `v[31:16]`. -/
def hi16 (v : Word) : BitVec 16 := v.extractLsb' 16 16

/-- A u16 field read as unsigned. -/
def u16 (v : BitVec 16) : Nat := v.toNat

/-- `s16(v)`: a 16-bit field read as two's complement (00_scope.md R7). -/
def s16 (v : BitVec 16) : Int := if v.getLsbD 15 then (v.toNat : Int) - 65536 else (v.toNat : Int)

/-- The field of a u16 operand. -/
def ofU16 (n : Nat) : BitVec 16 := BitVec.ofNat 16 n

/-- The field of an i16 operand: its 16-bit two's complement. -/
def ofS16 (i : Int) : BitVec 16 := BitVec.ofInt 16 i

/-- `pack(lo, hi)` (30_encoding.md R110). -/
def pack (lo hi : BitVec 16) : Word := hi ++ lo

/-- The code of a layer in the `L` bit: 0 = Layer1, 1 = Layer2 (30_encoding.md R101). -/
def layerBit : Layer → BitVec 1
  | .layer1 => 0#1
  | .layer2 => 1#1

/-- The layer the `L` bit names. -/
def layerOf (l : Bool) : Layer := if l then .layer2 else .layer1

/-- The two-bit ORIENT code (10_state.md R38). -/
def orientBits : Orientation → BitVec 2
  | .portrait => 0#2
  | .landscape => 1#2
  | .invertedPortrait => 2#2
  | .invertedLandscape => 3#2

/-- The orientation a two-bit code names; all four codes name one. -/
def orientOf (v : BitVec 2) : Orientation :=
  match v.toNat with
  | 0 => .portrait
  | 1 => .landscape
  | 2 => .invertedPortrait
  | _ => .invertedLandscape

/-- A point packed in one operand word, x low and y high (30_encoding.md R103). -/
def pointOf (v : Word) : Point := { x := s16 (lo16 v), y := s16 (hi16 v) }

/-! ## The opcode table -/

/-- One row of the bit-pattern table of 30_encoding.md R102: a word matches when `(cw & mask) == value`. -/
structure OpcodeRow where
  mnemonic : String
  value : Word
  mask : Word
  deriving DecidableEq, Repr

/-- The bit-pattern table of 30_encoding.md R102. -/
def opcodeTable : List OpcodeRow :=
  [ ⟨"INIT", 0x00000001#32, 0xFFFFFFFF#32⟩,
    ⟨"CLEAR", 0x00000002#32, 0xFFFFFFFF#32⟩,
    ⟨"CLEAR_LAYER", 0x00000003#32, 0xFFFFFEFF#32⟩,
    ⟨"GET_PIXEL", 0x00000004#32, 0xFFFFFFFF#32⟩,
    ⟨"GET_PIXEL_LAYER", 0x00000005#32, 0xFFFFFEFF#32⟩,
    ⟨"SET_PIXEL", 0x00000006#32, 0xFFFFFFFF#32⟩,
    ⟨"SET_PIXEL_LAYER", 0x00000007#32, 0xFFFFFEFF#32⟩,
    ⟨"DRAW_RECT", 0x00000008#32, 0xFFFFFFFF#32⟩,
    ⟨"DRAW_RECT_LAYER", 0x00000009#32, 0xFFFFFEFF#32⟩,
    ⟨"DRAW_TRI", 0x0000000A#32, 0xFFFFFFFF#32⟩,
    ⟨"DRAW_TRI_LAYER", 0x0000000B#32, 0xFFFFFEFF#32⟩ ]

/-- `(cw & mask) == match` (30_encoding.md R105). -/
def OpcodeRow.matches (r : OpcodeRow) (cw : Word) : Bool := cw &&& r.mask == r.value

/-! ## Decoding -/

/-- Why a command word is illegal (30_encoding.md R105). The device treats all of them alike; `truncated` is no
device behaviour, it says that a byte image holds fewer than the 20 bytes of a latch. -/
inductive Reject where
  /-- `RSV = cw[31:9]` is not 0. -/
  | reservedBits
  /-- OP = 0x00. -/
  | opcodeZero
  /-- OP in 0x0C to 0xFF. -/
  | unknownOpcode
  /-- `L = 1` with an opcode that does not use L. -/
  | strayLayer
  /-- The byte image is too short. -/
  | truncated
  deriving DecidableEq, Repr

/-- What decoding answers: one of the eleven commands or Illegal (30_encoding.md R108). -/
inductive Decoded where
  | legal (i : Instr)
  | illegal (why : Reject)
  deriving DecidableEq, Repr

/-- A command that does not use `L`: the bit must be 0. -/
def plain (l : Bool) (i : Instr) : Decoded := if l then .illegal .strayLayer else .legal i

/-- The command an opcode names (30_encoding.md R102), with its operands taken from the latched words as R104 says;
operand bits that R103 does not list are dropped here (R106). -/
def decodeOp (op : Nat) (l : Bool) (q : Latch) : Decoded :=
  match op with
  | 0x00 => .illegal .opcodeZero
  | 0x01 => plain l (.init (u16 (lo16 q.a0)) (u16 (hi16 q.a0)) (orientOf (q.a1.extractLsb' 0 2))
      (q.a1.extractLsb' 8 4).toNat)
  | 0x02 => plain l (.clear (lo16 q.a0))
  | 0x03 => .legal (.clearLayer (layerOf l) (lo16 q.a0))
  | 0x04 => plain l (.getPixel (u16 (lo16 q.a0)) (u16 (hi16 q.a0)))
  | 0x05 => .legal (.getPixelLayer (layerOf l) (u16 (lo16 q.a0)) (u16 (hi16 q.a0)))
  | 0x06 => plain l (.setPixel (u16 (lo16 q.a0)) (u16 (hi16 q.a0)) (lo16 q.a1))
  | 0x07 => .legal (.setPixelLayer (layerOf l) (u16 (lo16 q.a0)) (u16 (hi16 q.a0)) (lo16 q.a1))
  | 0x08 => plain l (.drawRect (s16 (lo16 q.a0)) (s16 (hi16 q.a0)) (u16 (lo16 q.a1)) (u16 (hi16 q.a1))
      (u16 (hi16 q.a3)) (lo16 q.a3))
  | 0x09 => .legal (.drawRectLayer (layerOf l) (s16 (lo16 q.a0)) (s16 (hi16 q.a0)) (u16 (lo16 q.a1))
      (u16 (hi16 q.a1)) (u16 (hi16 q.a3)) (lo16 q.a3))
  | 0x0A => plain l (.drawTri (pointOf q.a0) (pointOf q.a1) (pointOf q.a2) (u16 (hi16 q.a3)) (lo16 q.a3))
  | 0x0B => .legal (.drawTriLayer (layerOf l) (pointOf q.a0) (pointOf q.a1) (pointOf q.a2) (u16 (hi16 q.a3))
      (lo16 q.a3))
  | _ => .illegal .unknownOpcode

/-- `Decode(cw)` with its operands (30_encoding.md R101, R105, R108): total on every latch. -/
def decode (q : Latch) : Decoded :=
  if q.cw.extractLsb' 9 23 = 0#23 then decodeOp (q.cw.extractLsb' 0 8).toNat (q.cw.getLsbD 8) q
  else .illegal .reservedBits

/-! ## Encoding -/

/-- The command word of an opcode and a layer bit, `RSV` = 0 (30_encoding.md R101). -/
def commandWord (op : BitVec 8) (l : BitVec 1) : Word := (0#23 ++ l) ++ op

/-- ARG1 of INIT: `(f << 8) | o` (30_encoding.md R110). -/
def initWord (o : Orientation) (format : Nat) : Word :=
  (0#20 ++ BitVec.ofNat 4 format) ++ (0#6 ++ orientBits o)

/-- A colour operand word: the upper half is ignored by the device and 0 here. -/
def colorWord (c : Color) : Word := pack c 0#16

/-- A point operand word: `pack(x, y)`. -/
def pointWord (p : Point) : Word := pack (ofS16 p.x) (ofS16 p.y)

/-- The words of a command (30_encoding.md R102, R103, R110); an operand word the command does not read is 0. -/
def encode : Instr → Latch
  | .init w h o f => ⟨commandWord 0x01#8 0#1, pack (ofU16 w) (ofU16 h), initWord o f, 0, 0⟩
  | .clear c => ⟨commandWord 0x02#8 0#1, colorWord c, 0, 0, 0⟩
  | .clearLayer l c => ⟨commandWord 0x03#8 (layerBit l), colorWord c, 0, 0, 0⟩
  | .getPixel x y => ⟨commandWord 0x04#8 0#1, pack (ofU16 x) (ofU16 y), 0, 0, 0⟩
  | .getPixelLayer l x y => ⟨commandWord 0x05#8 (layerBit l), pack (ofU16 x) (ofU16 y), 0, 0, 0⟩
  | .setPixel x y c => ⟨commandWord 0x06#8 0#1, pack (ofU16 x) (ofU16 y), colorWord c, 0, 0⟩
  | .setPixelLayer l x y c => ⟨commandWord 0x07#8 (layerBit l), pack (ofU16 x) (ofU16 y), colorWord c, 0, 0⟩
  | .drawRect x y w h t c =>
    ⟨commandWord 0x08#8 0#1, pack (ofS16 x) (ofS16 y), pack (ofU16 w) (ofU16 h), 0, pack c (ofU16 t)⟩
  | .drawRectLayer l x y w h t c =>
    ⟨commandWord 0x09#8 (layerBit l), pack (ofS16 x) (ofS16 y), pack (ofU16 w) (ofU16 h), 0, pack c (ofU16 t)⟩
  | .drawTri a b c t col =>
    ⟨commandWord 0x0A#8 0#1, pointWord a, pointWord b, pointWord c, pack col (ofU16 t)⟩
  | .drawTriLayer l a b c t col =>
    ⟨commandWord 0x0B#8 (layerBit l), pointWord a, pointWord b, pointWord c, pack col (ofU16 t)⟩

/-- The operand bits a command reads (30_encoding.md R103), as a mask of each latched word; every other operand bit is
reserved (R106). -/
def listedBits : Instr → Latch
  | .init _ _ _ _ => ⟨0xFFFFFFFF, 0xFFFFFFFF, 0x00000F03, 0, 0⟩
  | .clear _ => ⟨0xFFFFFFFF, 0x0000FFFF, 0, 0, 0⟩
  | .clearLayer _ _ => ⟨0xFFFFFFFF, 0x0000FFFF, 0, 0, 0⟩
  | .getPixel _ _ => ⟨0xFFFFFFFF, 0xFFFFFFFF, 0, 0, 0⟩
  | .getPixelLayer _ _ _ => ⟨0xFFFFFFFF, 0xFFFFFFFF, 0, 0, 0⟩
  | .setPixel _ _ _ => ⟨0xFFFFFFFF, 0xFFFFFFFF, 0x0000FFFF, 0, 0⟩
  | .setPixelLayer _ _ _ _ => ⟨0xFFFFFFFF, 0xFFFFFFFF, 0x0000FFFF, 0, 0⟩
  | .drawRect _ _ _ _ _ _ => ⟨0xFFFFFFFF, 0xFFFFFFFF, 0xFFFFFFFF, 0, 0xFFFFFFFF⟩
  | .drawRectLayer _ _ _ _ _ _ _ => ⟨0xFFFFFFFF, 0xFFFFFFFF, 0xFFFFFFFF, 0, 0xFFFFFFFF⟩
  | .drawTri _ _ _ _ _ => ⟨0xFFFFFFFF, 0xFFFFFFFF, 0xFFFFFFFF, 0xFFFFFFFF, 0xFFFFFFFF⟩
  | .drawTriLayer _ _ _ _ _ _ => ⟨0xFFFFFFFF, 0xFFFFFFFF, 0xFFFFFFFF, 0xFFFFFFFF, 0xFFFFFFFF⟩

/-! ## Byte images (20_memory.md R73: byte k of a word carries bits 8k+7 : 8k) -/

/-- Byte lane `k` of a word. -/
def lane (v : Word) (k : Nat) : Byte := v.extractLsb' (8 * k) 8

/-- The word of four byte lanes, lane 0 first. -/
def ofLanes (b0 b1 b2 b3 : Byte) : Word := ((b3 ++ b2) ++ b1) ++ b0

/-- The four bytes of a word, lowest address first. -/
def wordBytes (v : Word) : List Byte := [lane v 0, lane v 1, lane v 2, lane v 3]

/-- The twenty bytes of a latch, the command word first. -/
def latchBytes (q : Latch) : List Byte :=
  wordBytes q.cw ++ wordBytes q.a0 ++ wordBytes q.a1 ++ wordBytes q.a2 ++ wordBytes q.a3

/-- The word at the front of a byte image, with the bytes after it. -/
def takeWord : List Byte → Option (Word × List Byte)
  | b0 :: b1 :: b2 :: b3 :: rest => some (ofLanes b0 b1 b2 b3, rest)
  | _ => none

/-- The latch at the front of a byte image. -/
def latchOfBytes (bs : List Byte) : Option Latch :=
  (takeWord bs).bind fun p0 => (takeWord p0.2).bind fun p1 => (takeWord p1.2).bind fun p2 =>
    (takeWord p2.2).bind fun p3 => (takeWord p3.2).map fun p4 => ⟨p0.1, p1.1, p2.1, p3.1, p4.1⟩

/-- Decoding a byte image: total on any bytes. -/
def decodeBytes (bs : List Byte) : Decoded :=
  match latchOfBytes bs with
  | some q => decode q
  | none => .illegal .truncated

/-- The latch whose words are the bits of `w`, numbered as spec/opcode_table.json numbers them: bit 0 is the least
significant bit of the command word and each operand word counts on by 32. Bits from `nbits` up are 0. -/
def latchOfNat (nbits w : Nat) : Latch :=
  let v := w % 2 ^ nbits
  { cw := BitVec.ofNat 32 v
    a0 := BitVec.ofNat 32 (v / 2 ^ 32)
    a1 := BitVec.ofNat 32 (v / 2 ^ 64)
    a2 := BitVec.ofNat 32 (v / 2 ^ 96)
    a3 := BitVec.ofNat 32 (v / 2 ^ 128) }

/-- The command the decoder reads from the words of a table row, laid out in memory as R73 says. -/
def decodeTableWord (nbits w : Nat) : Option Instr :=
  match decodeBytes (latchBytes (latchOfNat nbits w)) with
  | .legal i => some i
  | .illegal _ => none

end Sys2Proof
end

