-- ==== Sys2Proof/Config.lean ====
section
/-! DEFINITION. What the spec leaves to the implementation or the platform (00_scope.md R6), and the free values of
unspecified reads (70_reset_and_hazards.md R306). -/

namespace Sys2Proof

/-- The two choices of `SQUARE_HALF(s)` (00_scope.md R6): they differ for even `s` only. -/
inductive SquareHalf where
  /-- `s div 2`, the spec's default: the extra row and column stand above and left of the point. -/
  | upperLeft
  /-- `(s - 1) div 2`: the extra row and column stand below and right of the point. -/
  | lowerRight
  deriving DecidableEq, Repr

/-- The OPEN parameters of 00_scope.md R6. State carries one `Config` that no step and no reset writes, so a
statement about every state is a statement about every choice of the parameters (log entry 1). -/
structure Config where
  /-- `BASE`: the bus address of register offset 0x00. -/
  base : Nat
  /-- `MAX_PIXELS`: how many pixels one layer can hold. -/
  maxPixels : Nat
  /-- `SQUARE_HALF`: which way an even stroke square leans. -/
  squareHalf : SquareHalf
  deriving DecidableEq, Repr

/-- What R6 asks of the parameters: `BASE` is aligned to 0x40 and `MAX_PIXELS` is at least 1. -/
def Config.wf (c : Config) : Bool :=
  decide (c.base % 0x40 = 0) && decide (1 ≤ c.maxPixels)

/-- The parameters the model resets with. DESIGN CHOICE (log entry 1): `MAX_PIXELS` = 2^32 and
`SQUARE_HALF(s) = s div 2` are the spec's own words for a model without a limit and for the default; `BASE` = 0. -/
def Config.default : Config := { base := 0, maxPixels := 2 ^ 32, squareHalf := .upperLeft }

/-- The free values of R306: what the `n`-th unspecified read supplies. It has no body, so nothing is known of any
value of it, nor of two of them together: a statement about it holds whatever the reads return (log entry 6). -/
opaque Config.draw : Nat → Word

end Sys2Proof
end

