-- ==== Sys2Proof/Machine/State.lean ====
section
/-! DEFINITION. The state of the device (10_state.md R48), what the outside can do to it, and the reasons a step can
stop. -/

namespace Sys2Proof.Machine

/-- The pixel storage of one layer, keyed by the pixel index `y*W + x` of 20_memory.md R71. It is kept in one
canonical form (`Memory.wf`): indices strictly rising, and no entry holding BLACK, which is what an unlisted pixel
reads as (log entry 2). The pixel is the spec's smallest unit of storage: it has no bytes (20_memory.md R73). -/
abbrev Memory := List (Nat × Color)

/-- The engine (10_state.md R46): `Idle`, or `Busy` with the latched words of the command it holds. -/
inductive Engine where
  | idle
  | busy (held : Latch)
  deriving DecidableEq, Repr

/-- The status codes the device produces (60_exceptions.md R270). -/
inductive ErrCode where
  | ok
  | invalidDimensions
  | unsupportedPixelFormat
  | capacityExceeded
  | notInitialized
  | illegalCommand
  deriving DecidableEq, Repr

/-- The two agents that step (10_state.md R30). -/
inductive Agent where
  | host
  | engine
  deriving DecidableEq, Repr

/-- The width of a bus access (20_memory.md R74 supports 32 bits only). -/
inductive Width where
  | w8
  | w16
  | w32
  deriving DecidableEq, Repr

/-- One bus access by the host: `MemRead` or `MemWrite` at a bus address (00_scope.md R9, 20_memory.md R70). -/
inductive Access where
  | read (address : Nat) (width : Width)
  | write (address : Nat) (width : Width) (value : Word)
  deriving DecidableEq, Repr

/-- What the outside does next to the device (log entry 4). -/
inductive Input where
  /-- A bus access of the host. -/
  | access (a : Access)
  /-- `WAIT` (30_encoding.md R110): read STATUS until its BUSY bit is 0. -/
  | wait
  /-- The platform asserts the hardware reset, one instantaneous event (70_reset_and_hazards.md R300). -/
  | hardReset
  /-- A bus access while the reset is asserted (70_reset_and_hazards.md R300: a model refuses it). -/
  | accessInReset (a : Access)
  deriving DecidableEq, Repr

/-- One value a host read returned, with the offset it was read at. -/
structure HostRead where
  offset : Nat
  value : Word
  deriving DecidableEq, Repr

/-- The whole state. The fields from `eng` to `fb2` are the spec's complete architectural state (10_state.md R48);
`cfg` carries the parameters (00_scope.md R6); the last five are the model's own: the outside's next actions, the
free choice of who moves, the counter of free reads, what the host has read, and whether its last CMD write waits for
the STATUS read that ends a program. CTRL and CMD hold no state. -/
structure State where
  /-- The parameters; no step and no reset writes them (log entry 1). -/
  cfg : Config
  /-- The engine; STATUS.BUSY is `eng != Idle`. -/
  eng : Engine
  /-- STATUS.READY. -/
  ready : Bool
  /-- STATUS.OVR. -/
  ovr : Bool
  /-- STATUS.ERR. -/
  err : BitVec 4
  /-- SIZE.WIDTH. -/
  width : BitVec 16
  /-- SIZE.HEIGHT. -/
  height : BitVec 16
  /-- INFO.ORIENT. -/
  orient : Orientation
  /-- INFO.PIXFMT. -/
  pixfmt : BitVec 4
  /-- ARG0. -/
  arg0 : Word
  /-- ARG1. -/
  arg1 : Word
  /-- ARG2. -/
  arg2 : Word
  /-- ARG3. -/
  arg3 : Word
  /-- RESULT.COLOR. -/
  resColor : Color
  /-- RESULT.VALID. -/
  resValid : Bool
  /-- `FB[0]`, Layer1. -/
  fb1 : Memory
  /-- `FB[1]`, Layer2. -/
  fb2 : Memory
  /-- Model's own: what the outside has yet to do, oldest first (log entry 4). -/
  inputs : List Input
  /-- Model's own: who moves, one entry for each moment when both agents could (log entry 5). -/
  sched : List Agent
  /-- Model's own: how many unspecified reads have taken a free value (log entry 6). -/
  draws : Nat
  /-- Model's own: what the host's reads returned, newest first (log entry 7). -/
  reads : List HostRead
  /-- Model's own: a CMD write has been made, and no STATUS read after the last one has returned BUSY = 0
  (70_reset_and_hazards.md R310; log entry 18). -/
  unconfirmed : Bool
  deriving DecidableEq, Repr

/-- Nothing stops the device with a fault: "There is no trap, exception vector or handler" (60_exceptions.md R273).
An error is a status code. No constructor, so no step of the model can end in a fault (safe). -/
inductive Fault
  deriving DecidableEq, Repr

/-- Why a step is refused. -/
inductive Refusal where
  /-- Raised only by an arm of exec whose instruction has no meaning yet; no arm is so now. Safe. -/
  | notModelled (mnemonic : String)
  /-- Raised by a host access of 8 or 16 bits (20_memory.md R74, 93_implementation_defined.md I1). Safe. -/
  | unsupportedWidth
  /-- Raised by a host access at an offset that is no multiple of 4 (20_memory.md R74, I1). Safe. -/
  | misaligned
  /-- Raised by a host access to a bus address outside BASE to BASE + 0x3F, which is not this device's
  (20_memory.md R77). Safe. -/
  | outsideWindow
  /-- Raised by a host access while the hardware reset is asserted (70_reset_and_hazards.md R300, I5). Safe. -/
  | accessDuringReset
  deriving DecidableEq, Repr

/-- The state right after reset: every value of 10_state.md R48. The layers, unspecified there and unobservable while
READY = 0, hold the empty list (log entry 3). -/
def State.reset : State where
  cfg := Config.default
  eng := .idle
  ready := false
  ovr := false
  err := 0#4
  width := 0#16
  height := 0#16
  orient := .portrait
  pixfmt := 0#4
  arg0 := 0#32
  arg1 := 0#32
  arg2 := 0#32
  arg3 := 0#32
  resColor := 0#16
  resValid := false
  fb1 := []
  fb2 := []
  inputs := []
  sched := []
  draws := 0
  reads := []
  unconfirmed := false

end Sys2Proof.Machine
end

