-- ==== Sys2Proof/Machine/Flags.lean ====
section
/-! DEFINITION. The STATUS register: its codes, its bits, how it reads and what sets and clears them
(10_state.md R35, R36, R47; 60_exceptions.md R270, R275). -/

namespace Sys2Proof.Machine

/-- The number of a status code (60_exceptions.md R270). -/
def ErrCode.bits : ErrCode → BitVec 4
  | .ok => 0#4
  | .invalidDimensions => 1#4
  | .unsupportedPixelFormat => 2#4
  | .capacityExceeded => 3#4
  | .notInitialized => 4#4
  | .illegalCommand => 5#4

/-- STATUS.BUSY: `eng != Idle` (10_state.md R35, R46). -/
def State.busy (s : State) : Bool :=
  match s.eng with
  | .idle => false
  | .busy _ => true

/-- The STATUS word of the given fields (10_state.md R35): bit 0 BUSY, bit 1 READY, bit 2 OVR, bits 7:4 ERR, the
others 0. -/
def statusBits (busy ready ovr : Bool) (err : BitVec 4) : Word :=
  (0#24 ++ err) ++ ((0#1 ++ BitVec.ofBool ovr) ++ (BitVec.ofBool ready ++ BitVec.ofBool busy))

/-- STATUS with its stored fields, as it reads while BUSY = 0. -/
def State.statusWord (s : State) : Word := statusBits s.busy s.ready s.ovr s.err

/-- STATUS as it reads while BUSY = 1: BUSY and OVR exact, READY and ERR from the free value `d`
(70_reset_and_hazards.md R306). -/
def State.statusWhileBusy (s : State) (d : Word) : Word :=
  statusBits s.busy (d.getLsbD 1) s.ovr (d.extractLsb' 4 4)

/-- `STATUS.ERR <- code`. -/
def State.setErr (code : ErrCode) (s : State) : State := { s with err := code.bits }

/-- `STATUS.OVR <- 1`, the overrun (60_exceptions.md R275). -/
def State.setOvr (s : State) : State := { s with ovr := true }

/-- A host write of `v` to STATUS: `if v[2] == 1 then OVR <- 0` (10_state.md R36). -/
def State.writeStatus (v : Word) (s : State) : State := if v.getLsbD 2 then { s with ovr := false } else s

end Sys2Proof.Machine
end

