-- ==== Sys2Proof/Machine/Operands.lean ====
section
/-! DEFINITION. From coordinates and a layer to a place in the pixel storage (40_display.md R131 to R132;
20_memory.md R71). -/

namespace Sys2Proof.Machine

/-- `InBounds(x, y)` on a `W x H` canvas (40_display.md R132). -/
def inBounds (W H : Nat) (x y : Int) : Bool :=
  decide (0 ≤ x) && decide (x < (W : Int)) && decide (0 ≤ y) && decide (y < (H : Int))

/-- `idx(x, y) = y*W + x`, used only for coordinates in bounds (40_display.md R132). -/
def idx (W : Nat) (x y : Int) : Nat := (y * (W : Int) + x).toNat

/-- `W = SIZE.WIDTH`. -/
def State.W (s : State) : Nat := s.width.toNat

/-- `H = SIZE.HEIGHT`. -/
def State.H (s : State) : Nat := s.height.toNat

/-- `FB[L]` (00_scope.md R9: layer 0 is Layer1, layer 1 is Layer2). -/
def State.fb (s : State) : Layer → Memory
  | .layer1 => s.fb1
  | .layer2 => s.fb2

/-- `FB[L]` replaced whole. -/
def State.setFb (L : Layer) (m : Memory) (s : State) : State :=
  match L with
  | .layer1 => { s with fb1 := m }
  | .layer2 => { s with fb2 := m }

/-- The layer that is not `L`, the spec's `1 - L`. -/
def otherLayer : Layer → Layer
  | .layer1 => .layer2
  | .layer2 => .layer1

/-- The integers of the range `[a, b)`, rising; none when `a >= b` (00_scope.md R10). -/
def span (a b : Int) : List Int := (List.range (b - a).toNat).map fun (k : Nat) => a + (k : Int)

end Sys2Proof.Machine
end

