-- ==== Sys2Proof/Machine/Ops.lean ====
section
/-! DEFINITION. The operations the commands share: the pixel storage, completing with a status code, and reset. -/

namespace Sys2Proof.Machine

/-! ## Pixel storage -/

/-- What an unlisted pixel reads as: BLACK, which INIT fills both layers with (40_display.md R134, log entry 2). -/
def Memory.unlisted : Color := BLACK

/-- The pixel at index `i`. -/
def Memory.read (m : Memory) (i : Nat) : Color :=
  match m with
  | [] => Memory.unlisted
  | (k, c) :: rest => if k = i then c else Memory.read rest i

/-- `FB[L][i] <- c`, keeping the canonical form. -/
def Memory.write (m : Memory) (i : Nat) (c : Color) : Memory :=
  match m with
  | [] => if c = Memory.unlisted then [] else [(i, c)]
  | (k, d) :: rest =>
    if i < k then (if c = Memory.unlisted then (k, d) :: rest else (i, c) :: (k, d) :: rest)
    else if i = k then (if c = Memory.unlisted then rest else (i, c) :: rest)
    else (k, d) :: Memory.write rest i c

/-- A layer of `n` pixels that all hold `c`: the loop `for i in [0, n): FB[L][i] <- c` of R134, R140 and R142, done at
once as 00_scope.md R10 allows. -/
def Memory.filled (n : Nat) (c : Color) : Memory :=
  if c = Memory.unlisted then [] else (List.range n).map fun i => (i, c)

/-- The canonical form from index `lo` up: indices strictly rising, no entry that reads as an unlisted one. -/
def Memory.wfFrom (lo : Nat) (m : Memory) : Bool :=
  match m with
  | [] => true
  | (k, c) :: rest => decide (lo ≤ k) && decide (c ≠ Memory.unlisted) && Memory.wfFrom (k + 1) rest

/-- The canonical form. -/
def Memory.wf (m : Memory) : Bool := Memory.wfFrom 0 m

/-- Every listed pixel is one of the first `n`: the layer has `n` pixels (10_state.md R45). -/
def Memory.within (n : Nat) (m : Memory) : Bool := m.all fun p => decide (p.1 < n)

/-- `Put(L, x, y, c)`: a pixel write that checks the bounds and is a no-op outside them (40_display.md R133). -/
def State.put (L : Layer) (x y : Int) (c : Color) (s : State) : State :=
  if inBounds s.W s.H x y then s.setFb L ((s.fb L).write (idx s.W x y) c) else s

/-- The stored value of pixel `(x, y)` of layer `L`, absent out of bounds (20_memory.md R71). -/
def State.pixel (s : State) (L : Layer) (x y : Int) : Option Color :=
  if inBounds s.W s.H x y then some ((s.fb L).read (idx s.W x y)) else none

/-! ## Completing a command -/

/-- What a meaning answers. -/
abbrev Result := Host.Outcome State Fault Refusal

/-- A command that succeeds: `STATUS.ERR <- OK` on the state its effect left. -/
def succeed (s : State) : Result := .next (s.setErr .ok)

/-- `raise <Code>` (00_scope.md R9): the command completes with the code and changes nothing else. It takes the place
that taking an exception has elsewhere: the device has no trap (60_exceptions.md R273), and so no return from one. -/
def raise (code : ErrCode) (s : State) : Result := .next (s.setErr code)

/-- The frame every command but INIT has (40_display.md R130): without a display it raises NotInitialized. -/
def whenReady (s : State) (effect : State → State) : Result :=
  if s.ready then succeed (effect s) else raise .notInitialized s

/-- `RESULT <- {VALID = 1, COLOR = c}` or `{VALID = 0, COLOR = 0}` (10_state.md R41). -/
def State.setResult (r : Option Color) (s : State) : State :=
  match r with
  | some c => { s with resValid := true, resColor := c }
  | none => { s with resValid := false, resColor := 0#16 }

/-! ## Reset -/

/-- The reset of 70_reset_and_hazards.md R300: every piece of the device's state takes its reset value. The
parameters are no state, and what the outside does next and has seen is not the device's (log entry 8). -/
def State.deviceReset (s : State) : State :=
  { State.reset with
    cfg := s.cfg, inputs := s.inputs, sched := s.sched, draws := s.draws, reads := s.reads
    unconfirmed := s.unconfirmed }

end Sys2Proof.Machine
end

