-- ==== Sys2Proof/Machine/Bus.lean ====
section
/-! DEFINITION. The register window: host reads and writes (10_state.md R33 to R41; 20_memory.md R70 to R75). -/

namespace Sys2Proof.Machine

/-- What stands at a word of the register window (10_state.md R33). -/
inductive Reg where
  | ctrl
  | status
  | size
  | info
  | cmd
  | arg0
  | arg1
  | arg2
  | arg3
  | result
  /-- The words at 0x28 to 0x3C: read 0, writes ignored (20_memory.md R74). -/
  | reserved
  deriving DecidableEq, Repr

/-- The register at a byte offset of the window, a multiple of 4 (10_state.md R33). -/
def regAt (off : Nat) : Reg :=
  match off with
  | 0x00 => .ctrl
  | 0x04 => .status
  | 0x08 => .size
  | 0x0C => .info
  | 0x10 => .cmd
  | 0x14 => .arg0
  | 0x18 => .arg1
  | 0x1C => .arg2
  | 0x20 => .arg3
  | 0x24 => .result
  | _ => .reserved

/-- SIZE (10_state.md R37): bits 15:0 WIDTH, bits 31:16 HEIGHT. -/
def State.sizeWord (s : State) : Word := s.height ++ s.width

/-- INFO (10_state.md R38): bits 1:0 ORIENT, bits 11:8 PIXFMT, the others 0. -/
def State.infoWord (s : State) : Word := (0#20 ++ s.pixfmt) ++ (0#6 ++ orientBits s.orient)

/-- RESULT (10_state.md R41): bits 15:0 COLOR, bit 16 VALID, the others 0. -/
def State.resultWord (s : State) : Word := (0#15 ++ BitVec.ofBool s.resValid) ++ s.resColor

/-- What a read of a register returns, given the free value `d` it takes while BUSY = 1 (10_state.md R33 to R41;
70_reset_and_hazards.md R306). A WO register and a reserved word read 0 (20_memory.md R74). -/
def State.readReg (s : State) (r : Reg) (d : Word) : Word :=
  match r with
  | .ctrl => 0
  | .status => if s.busy then s.statusWhileBusy d else s.statusWord
  | .size => if s.busy then d else s.sizeWord
  | .info => if s.busy then d else s.infoWord
  | .cmd => 0
  | .arg0 => s.arg0
  | .arg1 => s.arg1
  | .arg2 => s.arg2
  | .arg3 => s.arg3
  | .result => if s.busy then d else s.resultWord
  | .reserved => 0

/-- The registers whose reads are unspecified while BUSY = 1, STATUS in part (70_reset_and_hazards.md R306). -/
def Reg.hasFreeBits (r : Reg) : Bool :=
  match r with
  | .status | .size | .info | .result => true
  | .ctrl | .cmd | .arg0 | .arg1 | .arg2 | .arg3 | .reserved => false

/-- A read of a register by the host: the value goes to the host, and nothing of the device changes (20_memory.md
R75). An unspecified read uses up the next free value (log entry 6). A STATUS read that returns BUSY = 0 confirms the
last CMD write (70_reset_and_hazards.md R310, log entry 18). -/
def State.hostRead (s : State) (off : Nat) : State :=
  let r := regAt off
  { s with
    reads := { offset := off, value := s.readReg r (Config.draw s.draws) } :: s.reads
    draws := if s.busy && r.hasFreeBits then s.draws + 1 else s.draws
    unconfirmed := s.unconfirmed && (s.busy || decide (r ≠ .status)) }

/-- A write of `v` to CMD (10_state.md R39; 60_exceptions.md R275): issue while BUSY = 0, latching the command word
and ARG0 to ARG3; dropped with OVR set while BUSY = 1. Either way it is the host's last CMD write, which a STATUS read
has yet to follow (log entry 18). -/
def State.issue (v : Word) (s : State) : State :=
  match s.eng with
  | .idle =>
    { s with
      eng := .busy { cw := v, a0 := s.arg0, a1 := s.arg1, a2 := s.arg2, a3 := s.arg3 }
      unconfirmed := true }
  | .busy _ => { s.setOvr with unconfirmed := true }

/-- A write of `v` to CTRL (10_state.md R34): bit 0 = 1 is the soft reset (70_reset_and_hazards.md R303). -/
def State.writeCtrl (v : Word) (s : State) : State := if v.getLsbD 0 then s.deviceReset else s

/-- A write of `v` to a register by the host (10_state.md R33 to R41). A write to a RO register or a reserved word is
ignored (20_memory.md R74). -/
def State.writeReg (r : Reg) (v : Word) (s : State) : State :=
  match r with
  | .ctrl => s.writeCtrl v
  | .status => s.writeStatus v
  | .size => s
  | .info => s
  | .cmd => s.issue v
  | .arg0 => { s with arg0 := v }
  | .arg1 => { s with arg1 := v }
  | .arg2 => { s with arg2 := v }
  | .arg3 => { s with arg3 := v }
  | .result => s
  | .reserved => s

/-- Where a bus access lands in the window, or why it is refused (20_memory.md R70, R74, R77; log entry 10). -/
inductive Located where
  | offset (off : Nat)
  | refused (why : Refusal)
  deriving DecidableEq, Repr

/-- The offset of a bus access in the window: the address from BASE to BASE + 0x3F, the width 32 bits, the offset a
multiple of 4 (20_memory.md R70, R74). -/
def locate (c : Config) (address : Nat) (w : Width) : Located :=
  if address < c.base ∨ c.base + 0x40 ≤ address then .refused .outsideWindow
  else if w ≠ .w32 then .refused .unsupportedWidth
  else if (address - c.base) % 4 ≠ 0 then .refused .misaligned
  else .offset (address - c.base)

/-- One bus access (20_memory.md R74). -/
def performAccess (a : Access) (s : State) : Result :=
  match a with
  | .read address w =>
    match locate s.cfg address w with
    | .offset off => .next (s.hostRead off)
    | .refused why => .refused why
  | .write address w v =>
    match locate s.cfg address w with
    | .offset off => .next (s.writeReg (regAt off) v)
    | .refused why => .refused why

end Sys2Proof.Machine
end

