-- ==== Sys2Proof/Machine/Display.lean ====
section
/-! DEFINITION. The display commands: INIT, CLEAR, CLEAR_LAYER, GET_PIXEL, GET_PIXEL_LAYER, SET_PIXEL,
SET_PIXEL_LAYER (40_display.md). -/

namespace Sys2Proof.Machine

/-- The construction of a display (40_display.md R134): SIZE, INFO, both layers all BLACK, READY. -/
def State.construct (w h : Nat) (o : Orientation) (s : State) : State :=
  { s with
    width := BitVec.ofNat 16 w
    height := BitVec.ofNat 16 h
    orient := o
    pixfmt := 0#4
    fb1 := Memory.filled (w * h) BLACK
    fb2 := Memory.filled (w * h) BLACK
    ready := true }

/-- INIT (40_display.md R134): dimensions, then format, then capacity (R272), then the construction. -/
def execInit (w h : Nat) (o : Orientation) (f : Nat) (s : State) : Result :=
  if w = 0 ∨ h = 0 then raise .invalidDimensions s
  else if f ≠ 0 then raise .unsupportedPixelFormat s
  else if s.cfg.maxPixels < w * h then raise .capacityExceeded s
  else succeed (s.construct w h o)

/-- Every pixel of one layer set to `c` (40_display.md R142). -/
def State.clearLayer (L : Layer) (c : Color) (s : State) : State := s.setFb L (Memory.filled (s.W * s.H) c)

/-- Every pixel of both layers set to `c` (40_display.md R140). -/
def State.clearBoth (c : Color) (s : State) : State := (s.clearLayer .layer1 c).clearLayer .layer2 c

/-- CLEAR (40_display.md R140). -/
def execClear (c : Color) (s : State) : Result := whenReady s (State.clearBoth c)

/-- CLEAR_LAYER (40_display.md R142). -/
def execClearLayer (L : Layer) (c : Color) (s : State) : Result := whenReady s (State.clearLayer L c)

/-- The read that both GET commands make (40_display.md R144, R146): the pixel of layer `L` into RESULT, absent out of
bounds; without a display RESULT is 0 and the code NotInitialized (R130, R151). -/
def readPixel (L : Layer) (x y : Nat) (s : State) : Result :=
  if s.ready then succeed (s.setResult (s.pixel L x y)) else raise .notInitialized (s.setResult none)

/-- GET_PIXEL (40_display.md R144): Layer1. -/
def execGetPixel (x y : Nat) (s : State) : Result := readPixel .layer1 x y s

/-- GET_PIXEL_LAYER (40_display.md R146). -/
def execGetPixelLayer (L : Layer) (x y : Nat) (s : State) : Result := readPixel L x y s

/-- SET_PIXEL (40_display.md R148): Layer1. -/
def execSetPixel (x y : Nat) (c : Color) (s : State) : Result := whenReady s (State.put .layer1 x y c)

/-- SET_PIXEL_LAYER (40_display.md R150). -/
def execSetPixelLayer (L : Layer) (x y : Nat) (c : Color) (s : State) : Result := whenReady s (State.put L x y c)

end Sys2Proof.Machine
end

