-- ==== Sys2Proof/Machine/Rect.lean ====
section
/-! DEFINITION. The shape clipper and the rectangle outline (41_rectangle.md). All arithmetic is over `Int`
(00_scope.md R8). -/

namespace Sys2Proof.Machine

/-- `Fill(L, x, y, w, h, c)` on a layer of a `W x H` canvas: the span clipped to the canvas, pixel by pixel
(41_rectangle.md R170). -/
def Memory.fill (W H : Nat) (x y w h : Int) (c : Color) (m : Memory) : Memory :=
  (span (max y 0) (min (y + h) H)).foldl
    (fun m py =>
      (span (max x 0) (min (x + w) W)).foldl (fun m px => Memory.write m (idx W px py) c) m)
    m

/-- `RectOutline(L, x, y, w, h, t, c)`: the four bands (41_rectangle.md R172 to R176). -/
def Memory.rectOutline (W H : Nat) (x y w h t : Int) (c : Color) (m : Memory) : Memory :=
  let th := min t h
  let tw := min t w
  let ih := max (h - 2 * t) 0
  let top := Memory.fill W H x y w th c m
  let bottom := if t < h then Memory.fill W H x (y + h - th) w th c top else top
  let left := Memory.fill W H x (y + t) tw ih c bottom
  Memory.fill W H (x + w - tw) (y + t) tw ih c left

/-- `DrawRect(L, x, y, w, h, t, c)` (41_rectangle.md R177): nothing for a zero size or thickness, nothing for a
rectangle fully outside, else the outline. -/
def Memory.drawRect (W H : Nat) (x y : Int) (w h t : Nat) (c : Color) (m : Memory) : Memory :=
  if w = 0 ∨ h = 0 ∨ t = 0 then m
  else if x + w ≤ 0 ∨ (W : Int) ≤ x ∨ y + h ≤ 0 ∨ (H : Int) ≤ y then m
  else Memory.rectOutline W H x y w h t c m

/-- The rectangle of 41_rectangle.md R177 drawn into `FB[L]`, the layer adapter's form (43_layer_adapter.md R230). -/
def State.drawRect (L : Layer) (x y : Int) (w h t : Nat) (c : Color) (s : State) : State :=
  s.setFb L (Memory.drawRect s.W s.H x y w h t c (s.fb L))

/-- DRAW_RECT (41_rectangle.md R177): Layer1. -/
def execDrawRect (x y : Int) (w h t : Nat) (c : Color) (s : State) : Result :=
  whenReady s (State.drawRect .layer1 x y w h t c)

/-- DRAW_RECT_LAYER (43_layer_adapter.md R231). -/
def execDrawRectLayer (L : Layer) (x y : Int) (w h t : Nat) (c : Color) (s : State) : Result :=
  whenReady s (State.drawRect L x y w h t c)

end Sys2Proof.Machine
end

