-- ==== Sys2Proof/Machine/Line.lean ====
section
/-! DEFINITION. The line rasterizer and the triangle outline (42_line_triangle.md). All arithmetic is over `Int`
(00_scope.md R8). -/

namespace Sys2Proof.Machine

/-! ## The Bresenham walk -/

/-- The loop variables of 42_line_triangle.md R200. -/
structure Walker where
  x : Int
  y : Int
  err : Int
  deriving DecidableEq, Repr

/-- What R200 computes once for a line: `dx`, `dy` (not positive), the two step signs and the end point. -/
structure Slope where
  dx : Int
  dy : Int
  sx : Int
  sy : Int
  stop : Point
  deriving DecidableEq, Repr

/-- `|v|`. -/
def absInt (v : Int) : Int := if v < 0 then -v else v

/-- The setup lines of R200. -/
def slopeOf (p q : Point) : Slope where
  dx := absInt (q.x - p.x)
  dy := -absInt (q.y - p.y)
  sx := if p.x < q.x then 1 else -1
  sy := if p.y < q.y then 1 else -1
  stop := q

/-- The x half of one turn of R200's loop: `if e2 >= dy`. -/
def advanceX (g : Slope) (e2 : Int) (k : Walker) : Walker :=
  if g.dy ≤ e2 then { k with err := k.err + g.dy, x := k.x + g.sx } else k

/-- The y half of one turn of R200's loop: `if e2 <= dx`. -/
def advanceY (g : Slope) (e2 : Int) (k : Walker) : Walker :=
  if e2 ≤ g.dx then { k with err := k.err + g.dx, y := k.y + g.sy } else k

/-- One turn of R200's loop after the stop test: `e2` is fixed before either half. -/
def advance (g : Slope) (k : Walker) : Walker :=
  let e2 := 2 * k.err
  advanceY g e2 (advanceX g e2 k)

/-- R200's loop with at most `fuel` turns after the first point. -/
def walk (g : Slope) (fuel : Nat) (k : Walker) : List Point :=
  match fuel with
  | 0 => [⟨k.x, k.y⟩]
  | n + 1 => if k.x = g.stop.x ∧ k.y = g.stop.y then [⟨k.x, k.y⟩] else ⟨k.x, k.y⟩ :: walk g n (advance g k)

/-- `max(|x1 - x0|, |y1 - y0|)`: how many turns the loop takes (R201 (a); log entry 14). -/
def lineTurns (p q : Point) : Nat := (max (absInt (q.x - p.x)) (absInt (q.y - p.y))).toNat

/-- `LinePoints(x0, y0, x1, y1)` (42_line_triangle.md R200). -/
def linePoints (p q : Point) : List Point :=
  let g := slopeOf p q
  walk g (lineTurns p q) { x := p.x, y := p.y, err := g.dx + g.dy }

/-! ## Strokes and triangles -/

/-- `SQUARE_HALF(s)` (00_scope.md R6). -/
def squareHalf (mode : SquareHalf) (s : Nat) : Nat :=
  match mode with
  | .upperLeft => s / 2
  | .lowerRight => (s - 1) / 2

/-- `StrokeLine(L, p, q, s, c)` (42_line_triangle.md R202): one clipped square of side `s` for each point. -/
def Memory.strokeLine (W H : Nat) (mode : SquareHalf) (p q : Point) (s : Nat) (c : Color) (m : Memory) : Memory :=
  let hf : Int := squareHalf mode s
  (linePoints p q).foldl (fun m k => Memory.fill W H (k.x - hf) (k.y - hf) s s c m) m

/-- `DrawTri(L, a, b, c, t, col)` (42_line_triangle.md R203): nothing for thickness 0 or three equal vertices, else
the edges a-b, b-c, c-a. -/
def Memory.drawTri (W H : Nat) (mode : SquareHalf) (a b c : Point) (t : Nat) (col : Color) (m : Memory) : Memory :=
  if t = 0 then m
  else if a = b ∧ b = c then m
  else
    let s := max t 1
    let ab := Memory.strokeLine W H mode a b s col m
    let bc := Memory.strokeLine W H mode b c s col ab
    Memory.strokeLine W H mode c a s col bc

/-- The triangle of 42_line_triangle.md R203 drawn into `FB[L]`, the layer adapter's form (43_layer_adapter.md
R230). -/
def State.drawTri (L : Layer) (a b c : Point) (t : Nat) (col : Color) (s : State) : State :=
  s.setFb L (Memory.drawTri s.W s.H s.cfg.squareHalf a b c t col (s.fb L))

/-- DRAW_TRI (42_line_triangle.md R203): Layer1. -/
def execDrawTri (a b c : Point) (t : Nat) (col : Color) (s : State) : Result :=
  whenReady s (State.drawTri .layer1 a b c t col)

/-- DRAW_TRI_LAYER (43_layer_adapter.md R232). -/
def execDrawTriLayer (L : Layer) (a b c : Point) (t : Nat) (col : Color) (s : State) : Result :=
  whenReady s (State.drawTri L a b c t col)

end Sys2Proof.Machine
end

