-- ==== Sys2Proof/Machine/Dispatch.lean ====
section
/-! DEFINITION. The meaning of each command, one arm per row of spec/opcode_table.json. -/

namespace Sys2Proof.Machine

def exec (i : Instr) (s : State) : Host.Outcome State Fault Refusal :=
  match i with
  | .init w h o f => Sys2Proof.Machine.execInit w h o f s
  | .clear c => Sys2Proof.Machine.execClear c s
  | .clearLayer l c => Sys2Proof.Machine.execClearLayer l c s
  | .getPixel x y => Sys2Proof.Machine.execGetPixel x y s
  | .getPixelLayer l x y => Sys2Proof.Machine.execGetPixelLayer l x y s
  | .setPixel x y c => Sys2Proof.Machine.execSetPixel x y c s
  | .setPixelLayer l x y c => Sys2Proof.Machine.execSetPixelLayer l x y c s
  | .drawRect x y w h t c => Sys2Proof.Machine.execDrawRect x y w h t c s
  | .drawRectLayer l x y w h t c => Sys2Proof.Machine.execDrawRectLayer l x y w h t c s
  | .drawTri a b c t col => Sys2Proof.Machine.execDrawTri a b c t col s
  | .drawTriLayer l a b c t col => Sys2Proof.Machine.execDrawTriLayer l a b c t col s

end Sys2Proof.Machine
end

