-- ==== Sys2Proof/Machine/Engine.lean ====
section
/-! DEFINITION. The engine's one step, the host's steps, and who moves (10_state.md R30; 40_display.md R130). -/

namespace Sys2Proof.Machine

/-- `eng <- Idle`, after the command's effect (40_display.md R130). -/
def retire (r : Result) : Result :=
  match r with
  | .next t => .next { t with eng := .idle }
  | .fault f => .fault f
  | .refused why => .refused why

/-- `Complete(cw, a0, a1, a2, a3)` (40_display.md R130): an illegal word completes with IllegalCommand and nothing
else; a command is executed, its own frame checking READY; the engine returns to Idle. Every word is legal or
illegal, so this is what every issued word does (30_encoding.md R105). -/
def complete (q : Latch) (s : State) : Result :=
  match decode q with
  | .illegal _ => retire (raise .illegalCommand s)
  | .legal i => retire (exec i s)

/-- `WAIT` (30_encoding.md R110): one read of STATUS; it goes on when the BUSY bit it read is 0, else it stays the
next input. -/
def poll (rest : List Input) (s : State) : State :=
  let t := s.hostRead 0x04
  if s.busy then t else { t with inputs := rest }

/-- The host's (or the platform's) next step, `x` at the head of the inputs and `rest` after it. -/
def performInput (x : Input) (rest : List Input) (s : State) : Result :=
  match x with
  | .access a => performAccess a { s with inputs := rest }
  | .wait => .next (poll rest s)
  | .hardReset => .next { s with inputs := rest }.deviceReset
  | .accessInReset _ => .refused .accessDuringReset

/-- The engine's step or the host's, `who` having the turn; an agent with nothing to do leaves the state alone. -/
def takeTurn (who : Agent) (s : State) : Result :=
  match who with
  | .engine =>
    match s.eng with
    | .idle => .next s
    | .busy q => complete q s
  | .host =>
    match s.inputs with
    | [] => .next s
    | x :: rest => performInput x rest s

/-- Both agents could move: a command is held and the outside has something to do. -/
def State.contended (s : State) : Bool := s.busy && !s.inputs.isEmpty

/-- Who moves (10_state.md R30: "interleave in any order"; log entry 5). Where both could, `sched` says who, and the
engine once `sched` has run out, so a held command always completes (weak fairness). Where one could, it does. -/
def State.turn (s : State) : Agent :=
  if s.contended then s.sched.headD .engine
  else if s.busy then .engine else .host

/-- The schedule after this step: its first entry is used up where both agents could move. -/
def State.spendTurn (s : State) : State := if s.contended then { s with sched := s.sched.tail } else s

/-- One step of the machine. -/
def machineStep (s : State) : Result := takeTurn s.turn s.spendTurn

/-- The state whose next step is the engine's, holding `q`, as a CMD write leaves it: no schedule entry can put a host
step before it. -/
def State.holding (q : Latch) (s : State) : State := { s with eng := .busy q, sched := [], unconfirmed := true }

end Sys2Proof.Machine
end

