-- ==== Sys2Proof/Machine/Step.lean ====
section
/-! DEFINITION. The step of the machine, and where it fetches: the engine's latch. -/

namespace Sys2Proof.Machine

/-- One step: the engine completes the command it holds, or the host performs its next access. -/
def step (s : State) : Host.Outcome State Fault Refusal := machineStep s

/-- `s` with an instruction where the next step fetches it: held by the engine, as issuing it leaves it (log entry
9). The words are the bits of `w` as spec/opcode_table.json numbers them, the bits from `nbits` up being 0. -/
def State.withFetchWord (s : State) (nbits w : Nat) : State := s.holding (latchOfNat nbits w)

end Sys2Proof.Machine
end

