-- ==== Sys2Proof/Machine/Color.lean ====
section
/-! DEFINITION. The host's colour conversions (44_color_snapshot.md R250 to R252): pure functions, no commands. -/

namespace Sys2Proof.Machine

/-- `R5 = c[15:11]` (44_color_snapshot.md R250). -/
def red5 (c : Color) : BitVec 5 := c.extractLsb' 11 5

/-- `G6 = c[10:5]`. -/
def green6 (c : Color) : BitVec 6 := c.extractLsb' 5 6

/-- `B5 = c[4:0]`. -/
def blue5 (c : Color) : BitVec 5 := c.extractLsb' 0 5

/-- `FromRGB888(r, g, b) = ((r >> 3) << 11) | ((g >> 2) << 5) | (b >> 3)` (44_color_snapshot.md R251). -/
def fromRGB888 (r g b : Byte) : Color :=
  (((r >>> 3).zeroExtend 16) <<< 11) ||| (((g >>> 2).zeroExtend 16) <<< 5) ||| ((b >>> 3).zeroExtend 16)

/-- A 5-bit channel to 8 bits, `v<<3 | v>>2` (44_color_snapshot.md R252). -/
def expand5 (v : BitVec 5) : Byte := (v.zeroExtend 8 <<< 3) ||| (v.zeroExtend 8 >>> 2)

/-- A 6-bit channel to 8 bits, `v<<2 | v>>4` (44_color_snapshot.md R252). -/
def expand6 (v : BitVec 6) : Byte := (v.zeroExtend 8 <<< 2) ||| (v.zeroExtend 8 >>> 4)

/-- Three 8-bit channels. -/
structure RGB888 where
  r : Byte
  g : Byte
  b : Byte
  deriving DecidableEq, Repr

/-- `ToRGB888(c)` (44_color_snapshot.md R252). -/
def toRGB888 (c : Color) : RGB888 :=
  { r := expand5 (red5 c), g := expand6 (green6 c), b := expand5 (blue5 c) }

/-- The three bytes a pixel contributes to the snapshot, in the order R8, G8, B8 (44_color_snapshot.md R253). -/
def pixelBytes (c : Color) : List Byte := [(toRGB888 c).r, (toRGB888 c).g, (toRGB888 c).b]

end Sys2Proof.Machine
end

