-- ==== Sys2Proof/Machine/Snapshot.lean ====
section
/-! DEFINITION. The P6 snapshot byte stream (44_color_snapshot.md R253): a host-side function of SIZE and Layer1. -/

namespace Sys2Proof.Machine

/-- The ASCII byte of a decimal digit. -/
def digitByte (d : Nat) : Byte := BitVec.ofNat 8 (0x30 + d)

/-- The decimal digits of `n` before `rest`, most significant first; `fuel` bounds their number. -/
def decimalFrom (fuel n : Nat) (rest : List Byte) : List Byte :=
  match fuel with
  | 0 => rest
  | k + 1 =>
    if n < 10 then digitByte n :: rest else decimalFrom k (n / 10) (digitByte (n % 10) :: rest)

/-- The decimal numeral of `n`, without leading zeros or sign (44_color_snapshot.md R253). -/
def decimal (n : Nat) : List Byte := decimalFrom (n + 1) n []

/-- `P6\n<width> <height>\n255\n` (44_color_snapshot.md R253): `\n` is 0x0A, the space 0x20. -/
def ppmHeader (W H : Nat) : List Byte :=
  [0x50#8, 0x36#8, 0x0A#8] ++ decimal W ++ [0x20#8] ++ decimal H ++ [0x0A#8] ++ decimal 255 ++ [0x0A#8]

/-- The pixel bytes of the first `n` pixels of a layer, in index order, which is row-major from the top row. -/
def rasterBytes (m : Memory) (n : Nat) : List Byte := (List.range n).flatMap fun i => pixelBytes (Memory.read m i)

/-- The snapshot of the display (44_color_snapshot.md R253): the header, then the pixels of Layer1. Layer2 is no part
of it (R254). -/
def State.snapshot (s : State) : List Byte := ppmHeader s.W s.H ++ rasterBytes (s.fb .layer1) (s.W * s.H)

end Sys2Proof.Machine
end

