-- ==== Sys2Proof/Machine/HostProgram.lean ====
section
/-! DEFINITION. The command assembly of the host (30_encoding.md R109, R110): the bus primitives, the expansion of a
command, the boot order (70_reset_and_hazards.md R304) and the read-out of a snapshot (44_color_snapshot.md R254), as
lists of inputs. -/

namespace Sys2Proof.Machine

/-- The byte offset of a register (10_state.md R33); a reserved word is given the first one. -/
def Reg.offset : Reg → Nat
  | .ctrl => 0x00
  | .status => 0x04
  | .size => 0x08
  | .info => 0x0C
  | .cmd => 0x10
  | .arg0 => 0x14
  | .arg1 => 0x18
  | .arg2 => 0x1C
  | .arg3 => 0x20
  | .result => 0x24
  | .reserved => 0x28

/-- `WR <reg>, <value>` is `MemWrite(BASE + off(<reg>), 4, <value>)` (30_encoding.md R109). -/
def wr (base : Nat) (r : Reg) (v : Word) : Input := .access (.write (base + r.offset) .w32 v)

/-- `RD <reg>` is `MemRead(BASE + off(<reg>), 4)` (30_encoding.md R109). -/
def rd (base : Nat) (r : Reg) : Input := .access (.read (base + r.offset) .w32)

/-- The expansion of a command (30_encoding.md R110): a write of each ARG register the command reads, in ascending
order, then the write of CMD. It does not wait. -/
def assemble (base : Nat) (i : Instr) : List Input :=
  let q := encode i
  let a0 := wr base .arg0 q.a0
  let a1 := wr base .arg1 q.a1
  let a2 := wr base .arg2 q.a2
  let a3 := wr base .arg3 q.a3
  let cmd := wr base .cmd q.cw
  match i with
  | .init _ _ _ _ => [a0, a1, cmd]
  | .clear _ => [a0, cmd]
  | .clearLayer _ _ => [a0, cmd]
  | .getPixel _ _ => [a0, cmd]
  | .getPixelLayer _ _ _ => [a0, cmd]
  | .setPixel _ _ _ => [a0, a1, cmd]
  | .setPixelLayer _ _ _ _ => [a0, a1, cmd]
  | .drawRect _ _ _ _ _ _ => [a0, a1, a3, cmd]
  | .drawRectLayer _ _ _ _ _ _ _ => [a0, a1, a3, cmd]
  | .drawTri _ _ _ _ _ => [a0, a1, a2, a3, cmd]
  | .drawTriLayer _ _ _ _ _ _ => [a0, a1, a2, a3, cmd]

/-- The boot order (70_reset_and_hazards.md R304): the optional soft reset, INIT, WAIT, and the read of STATUS that
the host checks. -/
def bootProgram (base w h : Nat) (o : Orientation) : List Input :=
  wr base .ctrl 1#32 :: (assemble base (.init w h o 0) ++ [.wait, rd base .status])

/-- The read-out of one pixel (44_color_snapshot.md R254): GET_PIXEL, WAIT, RD RESULT. -/
def readOutPixel (base x y : Nat) : List Input := assemble base (.getPixel x y) ++ [.wait, rd base .result]

/-- The read-out of a display (44_color_snapshot.md R254): SIZE, then every pixel in row-major order. -/
def readOutProgram (base W H : Nat) : List Input :=
  rd base .size :: (List.range H).flatMap fun y => (List.range W).flatMap fun x => readOutPixel base x y

/-- RESULT.COLOR of a word read from RESULT (10_state.md R41). -/
def resultColor (v : Word) : Color := v.extractLsb' 0 16

/-- RESULT.VALID of a word read from RESULT (10_state.md R41). -/
def resultValid (v : Word) : Bool := v.getLsbD 16

/-- What the host writes out of a read-out (44_color_snapshot.md R254): the header for the SIZE word it read, then the
bytes of each RESULT.COLOR in the order it read them. `results` are the words read from RESULT, oldest first. -/
def readOutStream (size : Word) (results : List Word) : List Byte :=
  ppmHeader (lo16 size).toNat (hi16 size).toNat ++ results.flatMap fun v => pixelBytes (resultColor v)

end Sys2Proof.Machine
end

