-- ==== Sys2Proof/WellFormed.lean ====
section
/-! DEFINITION. Which commands can be spelled: every operand in its field's range (30_encoding.md R103). "An operand
out of its field's range … spells no command; an assembler rejects it" (R109). -/

namespace Sys2Proof

/-- In the range of a u16 field. -/
def fitsU16 (n : Nat) : Bool := decide (n < 65536)

/-- In the range of an i16 field. -/
def fitsI16 (i : Int) : Bool := decide (-32768 ≤ i) && decide (i < 32768)

/-- In the range of the 4-bit PIXFMT field. -/
def fitsU4 (n : Nat) : Bool := decide (n < 16)

/-- Both coordinates in the range of an i16 field. -/
def Point.fits (p : Point) : Bool := fitsI16 p.x && fitsI16 p.y

/-- Every operand is in the range of its field (30_encoding.md R103). Colours, layers and orientations are so by
their types. -/
def Instr.wellFormed : Instr → Bool
  | .init w h _ f => fitsU16 w && fitsU16 h && fitsU4 f
  | .clear _ => true
  | .clearLayer _ _ => true
  | .getPixel x y => fitsU16 x && fitsU16 y
  | .getPixelLayer _ x y => fitsU16 x && fitsU16 y
  | .setPixel x y _ => fitsU16 x && fitsU16 y
  | .setPixelLayer _ x y _ => fitsU16 x && fitsU16 y
  | .drawRect x y w h t _ => fitsI16 x && fitsI16 y && fitsU16 w && fitsU16 h && fitsU16 t
  | .drawRectLayer _ x y w h t _ => fitsI16 x && fitsI16 y && fitsU16 w && fitsU16 h && fitsU16 t
  | .drawTri a b c t _ => a.fits && b.fits && c.fits && fitsU16 t
  | .drawTriLayer _ a b c t _ => a.fits && b.fits && c.fits && fitsU16 t

end Sys2Proof
end

