-- ==== Sys2Proof/Safety.lean ====
section
/-! DEFINITION. The words claims are stated in: the invariant of the machine, what a command leaves unchanged, which
inputs the spec gives a meaning, and what a finished host program shows. -/

namespace Sys2Proof.Machine

/-- The invariant of the machine: 10_state.md R45 (the display's bounds, and that with a display each layer has `W*H`
pixels), R37 and R38 (SIZE and INFO are 0 without a display), 60_exceptions.md R270 (no code above 5), 10_state.md R41
(an absent result has colour 0), 00_scope.md R6 (the parameters), and the canonical form of the layers, which is the
model's own (log entry 2). Without a display it says nothing of which pixels a layer lists. -/
structure Inv (s : State) : Prop where
  params : s.cfg.wf = true
  display : s.ready = true → 1 ≤ s.W ∧ 1 ≤ s.H ∧ s.W * s.H ≤ s.cfg.maxPixels
  noDisplay : s.ready = false → s.width = 0#16 ∧ s.height = 0#16 ∧ s.orient = .portrait
  format : s.pixfmt = 0#4
  code : s.err.toNat ≤ 5
  result : s.resValid = false → s.resColor = 0#16
  canonical : ∀ L, Memory.wf (s.fb L) = true
  sized : s.ready = true → ∀ L, Memory.within (s.W * s.H) (s.fb L) = true

/-- `(px, py)` lies in the rectangle of origin `(x, y)` and size `w x h` (41_rectangle.md R170). -/
def inRect (x y w h px py : Int) : Prop := x ≤ px ∧ px < x + w ∧ y ≤ py ∧ py < y + h

/-- `(px, py)` lies in one of the four bands of a rectangle outline (41_rectangle.md R172 to R176). -/
def inBands (x y w h t px py : Int) : Prop :=
  inRect x y w (min t h) px py
    ∨ (t < h ∧ inRect x (y + h - min t h) w (min t h) px py)
    ∨ inRect x (y + t) (min t w) (max (h - 2 * t) 0) px py
    ∨ inRect (x + w - min t w) (y + t) (min t w) (max (h - 2 * t) 0) px py

/-- The closed form of a rectangle outline (41_rectangle.md R178). -/
def inOutline (x y w h t px py : Int) : Prop :=
  inRect x y w h px py ∧ (py - y < t ∨ py - y ≥ h - t ∨ px - x < t ∨ px - x ≥ w - t)

/-- `(px, py)` lies in a stroke square of side `t` of one of the three edges of a triangle (42_line_triangle.md R202,
R206), `hf` being the offset from a point to the corner of its square. -/
def inStroke (hf : Int) (a b c : Point) (t : Int) (px py : Int) : Prop :=
  ∃ k ∈ linePoints a b ++ linePoints b c ++ linePoints c a, inRect (k.x - hf) (k.y - hf) t t px py

/-- `u` is `s` after a command that paints: the in-bounds pixels of layer `L` that satisfy `P` hold `c`, every other
pixel of it reads as before, the code is OK, and all the rest of the state is the same, the other layer among it. -/
def Painted (s u : State) (L : Layer) (c : Color) (P : Int → Int → Prop) : Prop :=
  u = { s.setFb L (u.fb L) with err := 0#4 }
    ∧ (∀ px py : Int, inBounds s.W s.H px py = true → P px py → Memory.read (u.fb L) (idx s.W px py) = c)
    ∧ (∀ j : Nat, (∀ px py : Int, inBounds s.W s.H px py = true → P px py → idx s.W px py ≠ j) →
        Memory.read (u.fb L) j = Memory.read (s.fb L) j)

/-- The two commands that write RESULT (40_display.md R151). -/
def isGet : Instr → Bool
  | .getPixel _ _ | .getPixelLayer _ _ _ => true
  | .init _ _ _ _ | .clear _ | .clearLayer _ _ | .setPixel _ _ _ | .setPixelLayer _ _ _ _ => false
  | .drawRect _ _ _ _ _ _ | .drawRectLayer _ _ _ _ _ _ _ | .drawTri _ _ _ _ _ | .drawTriLayer _ _ _ _ _ _ => false

/-- The one command that runs without a display (40_display.md R134). -/
def isInit : Instr → Bool
  | .init _ _ _ _ => true
  | .clear _ | .clearLayer _ _ | .getPixel _ _ | .getPixelLayer _ _ _ | .setPixel _ _ _ | .setPixelLayer _ _ _ _ => false
  | .drawRect _ _ _ _ _ _ | .drawRectLayer _ _ _ _ _ _ _ | .drawTri _ _ _ _ _ | .drawTriLayer _ _ _ _ _ _ => false

/-- The layers a command may write (40_display.md R131, R154). -/
def writesLayer (i : Instr) (L : Layer) : Bool :=
  match i with
  | .init _ _ _ _ => true
  | .clear _ => true
  | .clearLayer M _ => decide (M = L)
  | .getPixel _ _ => false
  | .getPixelLayer _ _ _ => false
  | .setPixel _ _ _ => decide (L = .layer1)
  | .setPixelLayer M _ _ _ => decide (M = L)
  | .drawRect _ _ _ _ _ _ => decide (L = .layer1)
  | .drawRectLayer M _ _ _ _ _ _ => decide (M = L)
  | .drawTri _ _ _ _ _ => decide (L = .layer1)
  | .drawTriLayer M _ _ _ _ _ => decide (M = L)

/-- The device's own state, without what the outside does next, who moves, and what has been read. -/
def State.device (s : State) : State :=
  { s with inputs := [], sched := [], draws := 0, reads := [], unconfirmed := false }

/-- An input the spec gives a meaning: a 32-bit access of the window at a multiple of 4 (20_memory.md R74), a WAIT, or
the hardware reset. -/
def supported (c : Config) (x : Input) : Bool :=
  match x with
  | .access (.read address w) | .access (.write address w _) =>
    decide (c.base ≤ address) && decide (address < c.base + 0x40) && decide (w = .w32)
      && decide ((address - c.base) % 4 = 0)
  | .wait => true
  | .hardReset => true
  | .accessInReset _ => false

/-- An input that resets the device: the hardware reset (70_reset_and_hazards.md R300) or a write of CTRL with bit 0
set (R303). -/
def resets (c : Config) (x : Input) : Bool :=
  match x with
  | .hardReset => true
  | .access (.write address w v) => decide (address = c.base) && decide (w = .w32) && v.getLsbD 0
  | .access (.read _ _) | .wait | .accessInReset _ => false

/-- A write of STATUS with bit 2 set (10_state.md R36). -/
def clearsOverrun (c : Config) (x : Input) : Bool :=
  match x with
  | .access (.write address w v) => decide (address = c.base + 0x04) && decide (w = .w32) && v.getLsbD 2
  | .access (.read _ _) | .wait | .hardReset | .accessInReset _ => false

/-- Two states that differ at most in pixel storage nobody can observe (70_reset_and_hazards.md R302). -/
def SameButHiddenPixels (s t : State) : Prop :=
  t = { s with fb1 := t.fb1, fb2 := t.fb2 } ∧ (s.ready = true → t = s)

/-- The host's own inputs, its accesses and its WAITs; the hardware reset is the platform's (70_reset_and_hazards.md
R300) and no part of a host program, which is a sequence of register accesses (92_eei_decisions.md D33). -/
def Input.byHost (x : Input) : Bool :=
  match x with
  | .access _ => true
  | .wait => true
  | .hardReset => false
  | .accessInReset _ => true

/-- The host program has ended (70_reset_and_hazards.md R310): its last access is performed, and a STATUS read after
its last CMD write has returned BUSY = 0. DESIGN CHOICE (log entry 18): a program that has made no CMD write needs no
such read. -/
def State.ended (s : State) : Bool := s.inputs.all (fun x => !x.byHost) && !s.unconfirmed

/-- A held command was written to CMD and its completion has not been seen: so it is in every state that host accesses
reach (10_state.md R39; 70_reset_and_hazards.md R310). -/
def State.commandsCounted (s : State) : Prop := s.busy = true → s.unconfirmed = true

/-- The observable end state of a host program (70_reset_and_hazards.md R310): the register values and, with a
display, the pixels of both layers in row-major order. -/
structure Observation where
  status : Word
  size : Word
  info : Word
  arg0 : Word
  arg1 : Word
  arg2 : Word
  arg3 : Word
  result : Word
  pixels : Option (List Color × List Color)
  deriving DecidableEq, Repr

/-- `v` is a STATUS word of `s` (10_state.md R35): BUSY, OVR and the reserved bits always, READY and ERR while
BUSY = 0. -/
def StatusFields (s : State) (v : Word) : Prop :=
  v.getLsbD 0 = s.busy ∧ v.getLsbD 2 = s.ovr ∧ v.getLsbD 3 = false ∧ v.extractLsb' 8 24 = 0
    ∧ (s.busy = false → v.getLsbD 1 = s.ready ∧ v.extractLsb' 4 4 = s.err)

/-- `v` is the SIZE word of `s` (10_state.md R37). -/
def SizeFields (s : State) (v : Word) : Prop := v.extractLsb' 0 16 = s.width ∧ v.extractLsb' 16 16 = s.height

/-- `v` is the INFO word of `s` (10_state.md R38). -/
def InfoFields (s : State) (v : Word) : Prop :=
  v.extractLsb' 0 2 = orientBits s.orient ∧ v.extractLsb' 2 6 = 0 ∧ v.extractLsb' 8 4 = s.pixfmt
    ∧ v.extractLsb' 12 20 = 0

/-- `v` is the RESULT word of `s` (10_state.md R41). -/
def ResultFields (s : State) (v : Word) : Prop :=
  v.extractLsb' 0 16 = s.resColor ∧ v.getLsbD 16 = s.resValid ∧ v.extractLsb' 17 15 = 0

/-- A 32-bit bus read at offset `off` goes on and delivers a word of which `P` holds. -/
def Delivers (s : State) (off : Nat) (P : Word → Prop) : Prop :=
  ∃ t v, performAccess (.read (s.cfg.base + off) .w32) s = .next t ∧ t.reads = ⟨off, v⟩ :: s.reads ∧ P v

/-- The number a list of ASCII digits spells in base ten. -/
def numeralValue (bs : List Byte) : Nat := bs.foldl (fun a b => 10 * a + (b.toNat - 0x30)) 0

/-- The decimal numeral of `n`: digits that spell it, at least one, no leading zero and no sign (44_color_snapshot.md
R253). -/
def IsNumeral (bs : List Byte) (n : Nat) : Prop :=
  bs ≠ [] ∧ (∀ b ∈ bs, 0x30 ≤ b.toNat ∧ b.toNat ≤ 0x39) ∧ numeralValue bs = n ∧ (bs.head? = some 0x30 → bs = [0x30])

/-- The pixels of a layer in row-major order. -/
def layerPixels (n : Nat) (m : Memory) : List Color := (List.range n).map (Memory.read m)

/-- What the end of a host program shows of a state (70_reset_and_hazards.md R310). -/
def State.observe (s : State) : Observation where
  status := s.statusWord
  size := s.sizeWord
  info := s.infoWord
  arg0 := s.arg0
  arg1 := s.arg1
  arg2 := s.arg2
  arg3 := s.arg3
  result := s.resultWord
  pixels := if s.ready then some (layerPixels (s.W * s.H) (s.fb .layer1), layerPixels (s.W * s.H) (s.fb .layer2))
    else none

end Sys2Proof.Machine
end

