-- ==== Sys2Proof/Certificates/Slice0/Obligations.lean ====
section
/-! DEFINITION. The statements for the provers. -/

section

open Sys2Proof Sys2Proof.Machine

/-! ## Encoding -/

/-- Words written out from 30_encoding.md R102 to R104 decode to the commands they stand for, and some illegal words
to none (sanity). -/
def Obligations.KnownWordsDecode : Prop :=
  decode ⟨0x00000001, 0x00060008, 0x00000002, 0, 0⟩ = .legal (.init 8 6 .invertedPortrait 0)
    ∧ decode ⟨0x00000002, 0xABCD001F, 0, 0, 0⟩ = .legal (.clear 0x001F)
    ∧ decode ⟨0x00000103, 0x0000F800, 0, 0, 0⟩ = .legal (.clearLayer .layer2 0xF800)
    ∧ decode ⟨0x00000105, 0x00050007, 0, 0, 0⟩ = .legal (.getPixelLayer .layer2 7 5)
    ∧ decode ⟨0x00000006, 0x00020003, 0x000007E0, 0, 0⟩ = .legal (.setPixel 3 2 0x07E0)
    ∧ decode ⟨0x00000008, 0xFFFFFFFE, 0x00040006, 0, 0x0001F800⟩ = .legal (.drawRect (-2) (-1) 6 4 1 0xF800)
    ∧ decode ⟨0x0000010B, 0xFFFDFFFD, 0xFFFD0008, 0x0008FFFD, 0x000107E0⟩ =
        .legal (.drawTriLayer .layer2 ⟨-3, -3⟩ ⟨8, -3⟩ ⟨-3, 8⟩ 1 0x07E0)
    ∧ decode ⟨0x00000104, 0, 0, 0, 0⟩ = .illegal .strayLayer
    ∧ decode ⟨0x0000000C, 0, 0, 0, 0⟩ = .illegal .unknownOpcode
    ∧ decode ⟨0x80000008, 0, 0, 0, 0⟩ = .illegal .reservedBits

/-- Decoding the words of a well-formed command gives it back, every operand at every value its field admits
(30_encoding.md R102 to R104). -/
def Obligations.DecodeOfEncodeIsTheCommand : Prop :=
  ∀ i : Instr, i.wellFormed = true → decode (encode i) = .legal i

/-- Whatever the decoder reads is a well-formed command, and encoding it gives the latched words back with the reserved
operand bits cleared and nothing else changed (30_encoding.md R103, R106). -/
def Obligations.EncodeOfDecodedKeepsEveryListedBit : Prop :=
  ∀ (q : Latch) (i : Instr), decode q = .legal i →
    i.wellFormed = true
      ∧ (encode i).cw = q.cw
      ∧ (encode i).a0 = q.a0 &&& (listedBits i).a0
      ∧ (encode i).a1 = q.a1 &&& (listedBits i).a1
      ∧ (encode i).a2 = q.a2 &&& (listedBits i).a2
      ∧ (encode i).a3 = q.a3 &&& (listedBits i).a3

/-- 30_encoding.md R106: an operand bit that R103 does not list never changes what is decoded. -/
def Obligations.ReservedOperandBitsAreIgnored : Prop :=
  ∀ (q r : Latch) (i : Instr), decode q = .legal i → r.cw = q.cw →
    r.a0 &&& (listedBits i).a0 = q.a0 &&& (listedBits i).a0 →
    r.a1 &&& (listedBits i).a1 = q.a1 &&& (listedBits i).a1 →
    r.a2 &&& (listedBits i).a2 = q.a2 &&& (listedBits i).a2 →
    r.a3 &&& (listedBits i).a3 = q.a3 &&& (listedBits i).a3 →
    decode r = .legal i

/-- 30_encoding.md R105: a word is legal exactly when it matches a row of the table; the illegal words are those it
lists; an illegal word is issued like any other and completes with IllegalCommand and no other effect. Nothing is said of
the model's own field `unconfirmed`. -/
def Obligations.IllegalWordsCompleteWithIllegalCommand : Prop :=
  (∀ q : Latch, (∃ i, decode q = .legal i) ↔ ∃ r ∈ opcodeTable, r.matches q.cw = true)
    ∧ (∀ q : Latch, (∃ why, decode q = .illegal why) ↔
        (q.cw.extractLsb' 0 8 = 0x00 ∨ 0x0C ≤ (q.cw.extractLsb' 0 8).toNat ∨ q.cw.extractLsb' 9 23 ≠ 0
          ∨ (q.cw.getLsbD 8 = true ∧ (q.cw.extractLsb' 0 8).toNat ∈ [0x01, 0x02, 0x04, 0x06, 0x08, 0x0A])))
    ∧ (∀ (s : State) (v : Word), s.eng = .idle →
        ∃ b, performAccess (.write (s.cfg.base + 0x10) .w32 v) s =
          .next { s with eng := .busy ⟨v, s.arg0, s.arg1, s.arg2, s.arg3⟩, unconfirmed := b })
    ∧ (∀ (s : State) (q : Latch) (why : Reject), decode q = .illegal why →
        complete q s = .next { s with err := 5#4, eng := .idle })

/-! ## The register window -/

/-- STATUS bit by bit (10_state.md R35), the register and the bus read at offset 0x04: BUSY and OVR exact at all times,
READY and ERR exact while BUSY = 0, the reserved bits 0. -/
def Obligations.StatusReadsItsFields : Prop :=
  ∀ s : State, (∀ d : Word, StatusFields s (s.readReg .status d)) ∧ Delivers s 0x04 (StatusFields s)

/-- SIZE, INFO and RESULT field by field while BUSY = 0 (10_state.md R33, R37, R38, R41), the registers and the bus reads
at offsets 0x08, 0x0C and 0x24. -/
def Obligations.SizeInfoResultReadTheirFields : Prop :=
  ∀ s : State, s.eng = .idle →
    (∀ d : Word,
        SizeFields s (s.readReg .size d) ∧ InfoFields s (s.readReg .info d) ∧ ResultFields s (s.readReg .result d))
      ∧ Delivers s 0x08 (SizeFields s) ∧ Delivers s 0x0C (InfoFields s) ∧ Delivers s 0x24 (ResultFields s)

/-- 10_state.md R40: ARG0 to ARG3 store all 32 bits and read back the last value written, whether BUSY or not, and a
held command is not touched. -/
def Obligations.ArgRegistersStoreAndReadBack : Prop :=
  ∀ (s : State) (v : Word),
    (performAccess (.write (s.cfg.base + 0x14) .w32 v) s = .next { s with arg0 := v }
      ∧ performAccess (.write (s.cfg.base + 0x18) .w32 v) s = .next { s with arg1 := v }
      ∧ performAccess (.write (s.cfg.base + 0x1C) .w32 v) s = .next { s with arg2 := v }
      ∧ performAccess (.write (s.cfg.base + 0x20) .w32 v) s = .next { s with arg3 := v })
    ∧ (performAccess (.read (s.cfg.base + 0x14) .w32) s = .next { s with reads := ⟨0x14, s.arg0⟩ :: s.reads }
      ∧ performAccess (.read (s.cfg.base + 0x18) .w32) s = .next { s with reads := ⟨0x18, s.arg1⟩ :: s.reads }
      ∧ performAccess (.read (s.cfg.base + 0x1C) .w32) s = .next { s with reads := ⟨0x1C, s.arg2⟩ :: s.reads }
      ∧ performAccess (.read (s.cfg.base + 0x20) .w32) s = .next { s with reads := ⟨0x20, s.arg3⟩ :: s.reads })

/-- 10_state.md R39: a write of CMD issues while BUSY = 0, latching the word and ARG0 to ARG3; while BUSY = 1 it is
dropped and sets OVR; CMD reads 0. Nothing is said of the model's own field `unconfirmed`. -/
def Obligations.CommandWriteIssuesOrIsDropped : Prop :=
  (∀ (s : State) (v : Word), s.eng = .idle →
      ∃ b, performAccess (.write (s.cfg.base + 0x10) .w32 v) s =
        .next { s with eng := .busy ⟨v, s.arg0, s.arg1, s.arg2, s.arg3⟩, unconfirmed := b })
    ∧ (∀ (s : State) (v : Word), s.busy = true →
        ∃ b, performAccess (.write (s.cfg.base + 0x10) .w32 v) s = .next { s with ovr := true, unconfirmed := b })
    ∧ (∀ s : State, performAccess (.read (s.cfg.base + 0x10) .w32) s = .next { s with reads := ⟨0x10, 0⟩ :: s.reads })

/-- 10_state.md R36: a write of STATUS clears OVR when bit 2 is set and does nothing else, whether BUSY or not. -/
def Obligations.StatusWriteClearsOnlyOverrun : Prop :=
  ∀ (s : State) (v : Word),
    performAccess (.write (s.cfg.base + 0x04) .w32 v) s =
      .next (if v.getLsbD 2 = true then { s with ovr := false } else s)

/-- 60_exceptions.md R275: a write of CMD while BUSY = 1 only sets OVR, and whatever step clears OVR is a write of
STATUS with bit 2 set or a reset. The field `unconfirmed` is the model's own (log entry 18), and so is who has the turn
(log entry 5). -/
def Obligations.OverrunStaysUntilClearedOrReset : Prop :=
  (∀ (s : State) (v : Word), s.busy = true →
      performAccess (.write (s.cfg.base + 0x10) .w32 v) s = .next { s with ovr := true, unconfirmed := true })
    ∧ (∀ s t : State, step s = .next t → s.ovr = true → t.ovr = false →
        ∃ x rest, s.turn = .host ∧ s.inputs = x :: rest
          ∧ (clearsOverrun s.cfg x = true ∨ resets s.cfg x = true))

/-- 10_state.md R34, 70_reset_and_hazards.md R300 and R303: CTRL bit 0 and the hardware reset give every piece of state
its reset value, whether BUSY or not, a held command being discarded; CTRL bit 0 = 0 does nothing; CTRL reads 0; an
access while reset is asserted is refused. Nothing is said of the layers, which reset leaves unspecified. That a reset
keeps `cfg`, `inputs`, `sched`, `draws`, `reads` and `unconfirmed` is the model's choice (log entry 8). -/
def Obligations.ResetGivesEveryRegisterItsValue : Prop :=
  (∀ (s : State) (v : Word), v.getLsbD 0 = true →
      ∃ m1 m2, performAccess (.write s.cfg.base .w32 v) s = .next
        { s with
          eng := .idle, ready := false, ovr := false, err := 0#4, width := 0#16, height := 0#16
          orient := .portrait, pixfmt := 0#4, arg0 := 0, arg1 := 0, arg2 := 0, arg3 := 0
          resColor := 0#16, resValid := false, fb1 := m1, fb2 := m2 })
    ∧ (∀ (s : State) (v : Word), v.getLsbD 0 = false → performAccess (.write s.cfg.base .w32 v) s = .next s)
    ∧ (∀ s : State, performAccess (.read s.cfg.base .w32) s = .next { s with reads := ⟨0x00, 0⟩ :: s.reads })
    ∧ (∀ (s : State) (rest : List Input),
        ∃ m1 m2, performInput .hardReset rest s = .next
          { s with
            inputs := rest, eng := .idle, ready := false, ovr := false, err := 0#4, width := 0#16, height := 0#16
            orient := .portrait, pixfmt := 0#4, arg0 := 0, arg1 := 0, arg2 := 0, arg3 := 0
            resColor := 0#16, resValid := false, fb1 := m1, fb2 := m2 })
    ∧ (∀ (s : State) (a : Access) (rest : List Input),
        performInput (.accessInReset a) rest s = .refused .accessDuringReset)

/-- 10_state.md R48: the reset values the spec gives (the layers have none). -/
def Obligations.ResetStateHasTheSpecsValues : Prop :=
  State.reset.eng = .idle ∧ State.reset.ready = false ∧ State.reset.ovr = false ∧ State.reset.err = 0
    ∧ State.reset.width = 0 ∧ State.reset.height = 0 ∧ orientBits State.reset.orient = 0 ∧ State.reset.pixfmt = 0
    ∧ State.reset.arg0 = 0 ∧ State.reset.arg1 = 0 ∧ State.reset.arg2 = 0 ∧ State.reset.arg3 = 0
    ∧ State.reset.resultWord = 0

/-- 20_memory.md R74: a reserved offset reads 0 with no effect and ignores writes; writes of SIZE, INFO and RESULT are
ignored; CTRL and CMD read 0; an access in the window of 8 or 16 bits, or at an offset that is no multiple of 4, is
refused. Under which name, and that the width is looked at before the alignment, is the model's choice (log entry
10). -/
def Obligations.WindowAccessesBehaveAsTabled : Prop :=
  (∀ (s : State) (off : Nat), 0x28 ≤ off → off < 0x40 → off % 4 = 0 →
      performAccess (.read (s.cfg.base + off) .w32) s = .next { s with reads := ⟨off, 0⟩ :: s.reads }
        ∧ ∀ v, performAccess (.write (s.cfg.base + off) .w32 v) s = .next s)
    ∧ (∀ (s : State) (v : Word) (off : Nat), off = 0x08 ∨ off = 0x0C ∨ off = 0x24 →
        performAccess (.write (s.cfg.base + off) .w32 v) s = .next s)
    ∧ (∀ (s : State) (off : Nat), off = 0x00 ∨ off = 0x10 →
        performAccess (.read (s.cfg.base + off) .w32) s = .next { s with reads := ⟨off, 0⟩ :: s.reads })
    ∧ (∀ (s : State) (off : Nat) (w : Width) (v : Word), off < 0x40 → w ≠ .w32 →
        performAccess (.read (s.cfg.base + off) w) s = .refused .unsupportedWidth
          ∧ performAccess (.write (s.cfg.base + off) w v) s = .refused .unsupportedWidth)
    ∧ (∀ (s : State) (off : Nat) (v : Word), off < 0x40 → off % 4 ≠ 0 →
        performAccess (.read (s.cfg.base + off) .w32) s = .refused .misaligned
          ∧ performAccess (.write (s.cfg.base + off) .w32 v) s = .refused .misaligned)

/-- The machine goes on exactly with the inputs the spec gives a meaning, and no step ever faults (20_memory.md R74,
R77; 60_exceptions.md R273). That an address outside the window is refused is the model's choice (log entry 10). -/
def Obligations.ExactlyTheSupportedInputsRun : Prop :=
  ∀ (s : State) (x : Input) (rest : List Input),
    (∃ t, performInput x rest s = .next t) ↔ supported s.cfg x = true

/-- Reads have no side effect on the device (20_memory.md R75). -/
def Obligations.ReadsLeaveTheDeviceAlone : Prop :=
  ∀ (s : State) (off : Nat), off < 0x40 → off % 4 = 0 →
    ∃ t v, performAccess (.read (s.cfg.base + off) .w32) s = .next t
      ∧ t.device = s.device ∧ t.reads = ⟨off, v⟩ :: s.reads ∧ t.inputs = s.inputs ∧ t.sched = s.sched

/-- 70_reset_and_hazards.md R306: while BUSY = 1 a read of SIZE, INFO or RESULT returns the next free value, used up by
it, and so do READY and ERR within STATUS, whose BUSY and OVR are exact; ARG0 to ARG3 are exact; CTRL and CMD read 0.
That a free value is the next one of the counter `draws`, that SIZE, INFO and RESULT take the whole word from it with the
reserved bits, and that READY and ERR of one read share one, is the model's choice (log entry 6). -/
def Obligations.BusyReadsReturnFreeValues : Prop :=
  ∀ s : State, s.busy = true →
    (∀ off, off = 0x08 ∨ off = 0x0C ∨ off = 0x24 →
        performAccess (.read (s.cfg.base + off) .w32) s =
          .next { s with reads := ⟨off, Config.draw s.draws⟩ :: s.reads, draws := s.draws + 1 })
      ∧ (∃ v : Word, performAccess (.read (s.cfg.base + 0x04) .w32) s =
            .next { s with reads := ⟨0x04, v⟩ :: s.reads, draws := s.draws + 1 }
          ∧ v.getLsbD 0 = true ∧ v.getLsbD 2 = s.ovr
          ∧ v.getLsbD 1 = (Config.draw s.draws).getLsbD 1
          ∧ v.extractLsb' 4 4 = (Config.draw s.draws).extractLsb' 4 4)
      ∧ (∀ off w, (off, w) ∈ [(0x14, s.arg0), (0x18, s.arg1), (0x1C, s.arg2), (0x20, s.arg3), (0x00, 0), (0x10, 0)] →
          performAccess (.read (s.cfg.base + off) .w32) s = .next { s with reads := ⟨off, w⟩ :: s.reads })

/-! ## The display commands -/

/-- 40_display.md R134: INIT raises InvalidDimensions, UnsupportedPixelFormat or CapacityExceeded, in that order of
checks, changing nothing but ERR; else it sets SIZE, INFO and READY, and every pixel of both layers is BLACK. The last
part is its encoding and its operands. -/
def Obligations.InitConstructsOrRaises : Prop :=
  (∀ (s : State) (w h f : Nat) (o : Orientation), w < 65536 → h < 65536 → f < 16 →
    (w = 0 ∨ h = 0 → exec (.init w h o f) s = .next { s with err := 1#4 })
      ∧ (w ≠ 0 → h ≠ 0 → f ≠ 0 → exec (.init w h o f) s = .next { s with err := 2#4 })
      ∧ (w ≠ 0 → h ≠ 0 → f = 0 → s.cfg.maxPixels < w * h → exec (.init w h o f) s = .next { s with err := 3#4 })
      ∧ (w ≠ 0 → h ≠ 0 → f = 0 → w * h ≤ s.cfg.maxPixels →
          ∃ u, exec (.init w h o f) s = .next u
            ∧ u = { s with
                width := BitVec.ofNat 16 w, height := BitVec.ofNat 16 h, orient := o, pixfmt := 0#4
                ready := true, err := 0#4, fb1 := u.fb1, fb2 := u.fb2 }
            ∧ ∀ L j, Memory.read (u.fb L) j = BLACK))
    ∧ (∀ q : Latch, q.cw = 0x00000001 →
        ∃ o, orientBits o = q.a1.extractLsb' 0 2
          ∧ decode q = .legal (.init (q.a0.extractLsb' 0 16).toNat (q.a0.extractLsb' 16 16).toNat o
              (q.a1.extractLsb' 8 4).toNat))

/-- 40_display.md R140: CLEAR sets every pixel of both layers and changes nothing else but ERR; without a display it
completes with NotInitialized. The last part is its encoding and its operand. -/
def Obligations.ClearFillsBothLayers : Prop :=
  (∀ (s : State) (c : Color), Inv s → s.ready = true →
      ∃ u, exec (.clear c) s = .next u
        ∧ u = { s with fb1 := u.fb1, fb2 := u.fb2, err := 0#4 }
        ∧ (∀ L px py, inBounds s.W s.H px py = true → Memory.read (u.fb L) (idx s.W px py) = c)
        ∧ (∀ L j, s.W * s.H ≤ j → Memory.read (u.fb L) j = Memory.read (s.fb L) j))
    ∧ (∀ (s : State) (c : Color), s.ready = false → exec (.clear c) s = .next { s with err := 4#4 })
    ∧ (∀ q : Latch, q.cw = 0x00000002 → decode q = .legal (.clear (q.a0.extractLsb' 0 16)))

/-- 40_display.md R142: CLEAR_LAYER sets every pixel of one layer, leaves the other alone and changes nothing else but
ERR; without a display it completes with NotInitialized. The last part is its encoding and its operands. -/
def Obligations.ClearLayerFillsOneLayer : Prop :=
  (∀ (s : State) (L : Layer) (c : Color), Inv s → s.ready = true →
      ∃ u, exec (.clearLayer L c) s = .next u ∧ Painted s u L c fun _ _ => True)
    ∧ (∀ (s : State) (L : Layer) (c : Color), s.ready = false →
        exec (.clearLayer L c) s = .next { s with err := 4#4 })
    ∧ (∀ (q : Latch) (L : Layer), q.cw = (if L = .layer1 then 0x00000003 else 0x00000103) →
        decode q = .legal (.clearLayer L (q.a0.extractLsb' 0 16)))

/-- 40_display.md R144: GET_PIXEL puts the stored value of Layer1 in RESULT, or absent out of bounds, and changes no
pixel; without a display RESULT is 0 and the code NotInitialized. The last part is its encoding and its operands. -/
def Obligations.GetPixelReadsLayer1 : Prop :=
  (∀ (s : State) (x y : Nat),
    (s.ready = true → x < s.W → y < s.H →
        exec (.getPixel x y) s =
          .next { s with resValid := true, resColor := Memory.read s.fb1 (y * s.W + x), err := 0#4 })
      ∧ (s.ready = true → s.W ≤ x ∨ s.H ≤ y →
          exec (.getPixel x y) s = .next { s with resValid := false, resColor := 0#16, err := 0#4 })
      ∧ (s.ready = false →
          exec (.getPixel x y) s = .next { s with resValid := false, resColor := 0#16, err := 4#4 }))
    ∧ (∀ q : Latch, q.cw = 0x00000004 →
        decode q = .legal (.getPixel (q.a0.extractLsb' 0 16).toNat (q.a0.extractLsb' 16 16).toNat))

/-- 40_display.md R146: GET_PIXEL_LAYER is the same with the chosen layer. -/
def Obligations.GetPixelLayerReadsChosenLayer : Prop :=
  (∀ (s : State) (L : Layer) (x y : Nat),
    (s.ready = true → x < s.W → y < s.H →
        exec (.getPixelLayer L x y) s =
          .next { s with resValid := true, resColor := Memory.read (s.fb L) (y * s.W + x), err := 0#4 })
      ∧ (s.ready = true → s.W ≤ x ∨ s.H ≤ y →
          exec (.getPixelLayer L x y) s = .next { s with resValid := false, resColor := 0#16, err := 0#4 })
      ∧ (s.ready = false →
          exec (.getPixelLayer L x y) s = .next { s with resValid := false, resColor := 0#16, err := 4#4 }))
    ∧ (∀ (q : Latch) (L : Layer), q.cw = (if L = .layer1 then 0x00000005 else 0x00000105) →
        decode q = .legal (.getPixelLayer L (q.a0.extractLsb' 0 16).toNat (q.a0.extractLsb' 16 16).toNat))

/-- 40_display.md R148: SET_PIXEL writes the one pixel of Layer1, nothing out of bounds, and changes nothing else but
ERR; without a display it completes with NotInitialized. The last part is its encoding and its operands. That the layer
is Layer1 is an inference of the spec (R131). -/
def Obligations.SetPixelWritesOnePixelOfLayer1 : Prop :=
  (∀ (s : State) (x y : Nat) (c : Color), Inv s → s.ready = true →
      ∃ u, exec (.setPixel x y c) s = .next u ∧ Painted s u .layer1 c fun px py => px = x ∧ py = y)
    ∧ (∀ (s : State) (x y : Nat) (c : Color), s.ready = false →
        exec (.setPixel x y c) s = .next { s with err := 4#4 })
    ∧ (∀ q : Latch, q.cw = 0x00000006 →
        decode q = .legal (.setPixel (q.a0.extractLsb' 0 16).toNat (q.a0.extractLsb' 16 16).toNat
          (q.a1.extractLsb' 0 16)))

/-- 40_display.md R150: SET_PIXEL_LAYER is the same with the chosen layer. -/
def Obligations.SetPixelLayerWritesOnePixel : Prop :=
  (∀ (s : State) (L : Layer) (x y : Nat) (c : Color), Inv s → s.ready = true →
      ∃ u, exec (.setPixelLayer L x y c) s = .next u ∧ Painted s u L c fun px py => px = x ∧ py = y)
    ∧ (∀ (s : State) (L : Layer) (x y : Nat) (c : Color), s.ready = false →
        exec (.setPixelLayer L x y c) s = .next { s with err := 4#4 })
    ∧ (∀ (q : Latch) (L : Layer), q.cw = (if L = .layer1 then 0x00000007 else 0x00000107) →
        decode q = .legal (.setPixelLayer L (q.a0.extractLsb' 0 16).toNat (q.a0.extractLsb' 16 16).toNat
          (q.a1.extractLsb' 0 16)))

/-! ## The rasterizers -/

/-- 41_rectangle.md R170: `Fill` sets exactly the in-bounds pixels of its rectangle, whatever the signs and sizes. -/
def Obligations.FillSetsExactlyTheClippedSpan : Prop :=
  ∀ (W H : Nat) (x y w h : Int) (c : Color) (m : Memory), Memory.wf m = true →
    (∀ px py, inBounds W H px py = true → x ≤ px → px < x + w → y ≤ py → py < y + h →
        Memory.read (Memory.fill W H x y w h c m) (idx W px py) = c)
      ∧ (∀ j, (∀ px py, inBounds W H px py = true → x ≤ px → px < x + w → y ≤ py → py < y + h → idx W px py ≠ j) →
          Memory.read (Memory.fill W H x y w h c m) j = Memory.read m j)

/-- 41_rectangle.md R177 with the bands of R172: DRAW_RECT paints exactly the in-bounds pixels of the four bands into
Layer1, whatever the operands, and completes OK; without a display it completes with NotInitialized. The last part is
its encoding and its operands. That the layer is Layer1 is an inference of the spec (40_display.md R131), and the right
band at the right edge its own reading (R175, D20; log entry 15). -/
def Obligations.DrawRectPaintsTheFourBands : Prop :=
  (∀ (s : State) (x y : Int) (w h t : Nat) (c : Color), Inv s → s.ready = true →
      ∃ u, exec (.drawRect x y w h t c) s = .next u ∧ Painted s u .layer1 c (inBands x y w h t))
    ∧ (∀ (s : State) (x y : Int) (w h t : Nat) (c : Color), s.ready = false →
        exec (.drawRect x y w h t c) s = .next { s with err := 4#4 })
    ∧ (∀ q : Latch, q.cw = 0x00000008 →
        decode q = .legal (.drawRect (q.a0.extractLsb' 0 16).toInt (q.a0.extractLsb' 16 16).toInt
          (q.a1.extractLsb' 0 16).toNat (q.a1.extractLsb' 16 16).toNat (q.a3.extractLsb' 16 16).toNat
          (q.a3.extractLsb' 0 16)))

/-- 43_layer_adapter.md R231 with 41_rectangle.md R172 and R177: DRAW_RECT_LAYER does so in the chosen layer and leaves
the other alone. The right band at the right edge is the spec's own reading (R175, D20; log entry 15). -/
def Obligations.DrawRectLayerPaintsTheChosenLayer : Prop :=
  (∀ (s : State) (L : Layer) (x y : Int) (w h t : Nat) (c : Color), Inv s → s.ready = true →
      ∃ u, exec (.drawRectLayer L x y w h t c) s = .next u ∧ Painted s u L c (inBands x y w h t))
    ∧ (∀ (s : State) (L : Layer) (x y : Int) (w h t : Nat) (c : Color), s.ready = false →
        exec (.drawRectLayer L x y w h t c) s = .next { s with err := 4#4 })
    ∧ (∀ (q : Latch) (L : Layer), q.cw = (if L = .layer1 then 0x00000009 else 0x00000109) →
        decode q = .legal (.drawRectLayer L (q.a0.extractLsb' 0 16).toInt (q.a0.extractLsb' 16 16).toInt
          (q.a1.extractLsb' 0 16).toNat (q.a1.extractLsb' 16 16).toNat (q.a3.extractLsb' 16 16).toNat
          (q.a3.extractLsb' 0 16)))

/-- 42_line_triangle.md R203: DRAW_TRI paints nothing for thickness 0 or three equal vertices, else exactly the
in-bounds pixels of the stroke squares of its three edges, into Layer1, and completes OK; without a display it
completes with NotInitialized. The last part is its encoding and its operands. A square of side `t` stands `t div 2` or
`(t - 1) div 2` above and left of its point (00_scope.md R6). That the layer is Layer1 is an inference of the spec
(40_display.md R131), and the line variant its own choice (R200; log entry 15). -/
def Obligations.DrawTriPaintsTheStrokedEdges : Prop :=
  (∀ (s : State) (a b c : Point) (t : Nat) (col : Color), Inv s → s.ready = true →
      ∃ u, exec (.drawTri a b c t col) s = .next u
        ∧ Painted s u .layer1 col fun px py =>
            t ≠ 0 ∧ ¬ (a = b ∧ b = c)
              ∧ inStroke (if s.cfg.squareHalf = .upperLeft then (t : Int) / 2 else ((t : Int) - 1) / 2) a b c t px py)
    ∧ (∀ (s : State) (a b c : Point) (t : Nat) (col : Color), s.ready = false →
        exec (.drawTri a b c t col) s = .next { s with err := 4#4 })
    ∧ (∀ q : Latch, q.cw = 0x0000000A →
        decode q = .legal (.drawTri ⟨(q.a0.extractLsb' 0 16).toInt, (q.a0.extractLsb' 16 16).toInt⟩
          ⟨(q.a1.extractLsb' 0 16).toInt, (q.a1.extractLsb' 16 16).toInt⟩
          ⟨(q.a2.extractLsb' 0 16).toInt, (q.a2.extractLsb' 16 16).toInt⟩
          (q.a3.extractLsb' 16 16).toNat (q.a3.extractLsb' 0 16)))

/-- 43_layer_adapter.md R232 with 42_line_triangle.md R203, R202 and R200: DRAW_TRI_LAYER does so in the chosen layer
and leaves the other alone. The line variant is the spec's own choice (R200; log entry 15). -/
def Obligations.DrawTriLayerPaintsTheChosenLayer : Prop :=
  (∀ (s : State) (L : Layer) (a b c : Point) (t : Nat) (col : Color), Inv s → s.ready = true →
      ∃ u, exec (.drawTriLayer L a b c t col) s = .next u
        ∧ Painted s u L col fun px py =>
            t ≠ 0 ∧ ¬ (a = b ∧ b = c)
              ∧ inStroke (if s.cfg.squareHalf = .upperLeft then (t : Int) / 2 else ((t : Int) - 1) / 2) a b c t px py)
    ∧ (∀ (s : State) (L : Layer) (a b c : Point) (t : Nat) (col : Color), s.ready = false →
        exec (.drawTriLayer L a b c t col) s = .next { s with err := 4#4 })
    ∧ (∀ (q : Latch) (L : Layer), q.cw = (if L = .layer1 then 0x0000000B else 0x0000010B) →
        decode q = .legal (.drawTriLayer L ⟨(q.a0.extractLsb' 0 16).toInt, (q.a0.extractLsb' 16 16).toInt⟩
          ⟨(q.a1.extractLsb' 0 16).toInt, (q.a1.extractLsb' 16 16).toInt⟩
          ⟨(q.a2.extractLsb' 0 16).toInt, (q.a2.extractLsb' 16 16).toInt⟩
          (q.a3.extractLsb' 16 16).toNat (q.a3.extractLsb' 0 16)))

/-- The closed form of a rectangle outline, an inference of the spec (41_rectangle.md R178): the rectangle without its
inner rectangle, clipped. -/
def Obligations.RectangleOutlineHasItsClosedForm : Prop :=
  ∀ (s : State) (L : Layer) (x y : Int) (w h t : Nat) (c : Color), Inv s → s.ready = true → 1 ≤ w → 1 ≤ h → 1 ≤ t →
    ∃ u, exec (.drawRectLayer L x y w h t c) s = .next u ∧ Painted s u L c (inOutline x y w h t)

/-- The pixel count of a rectangle wholly inside a BLACK canvas, an inference of the spec (41_rectangle.md R179):
`w*h - max(w - 2t, 0) * max(h - 2t, 0)`. -/
def Obligations.RectangleInsideTheCanvasHasItsCount : Prop :=
  ∀ (W H x y w h t : Nat) (c : Color), x + w ≤ W → y + h ≤ H → 1 ≤ w → 1 ≤ h → 1 ≤ t → c ≠ BLACK →
    (List.range (W * H)).countP (fun j => decide (Memory.read (Memory.drawRect W H x y w h t c []) j = c)) =
      w * h - (w - 2 * t) * (h - 2 * t)

/-- The shapes the spec names no-ops (41_rectangle.md R177, 42_line_triangle.md R203, R204) change nothing and report
OK. -/
def Obligations.DegenerateShapesDrawNothing : Prop :=
  (∀ (s : State) (L : Layer) (x y : Int) (w h t : Nat) (c : Color), s.ready = true →
      w = 0 ∨ h = 0 ∨ t = 0 ∨ x + w ≤ 0 ∨ (s.W : Int) ≤ x ∨ y + h ≤ 0 ∨ (s.H : Int) ≤ y →
      exec (.drawRectLayer L x y w h t c) s = .next { s with err := 0#4 })
    ∧ (∀ (s : State) (L : Layer) (a b c : Point) (t : Nat) (col : Color), s.ready = true →
        t = 0 ∨ (a = b ∧ b = c) → exec (.drawTriLayer L a b c t col) s = .next { s with err := 0#4 })

/-- The number of points of a line and its two ends, an inference of the spec (42_line_triangle.md R201 (a), (d)):
`max(|x1 - x0|, |y1 - y0|) + 1` points, the first `p`, the last `q`. -/
def Obligations.LinePointsCountAndEnds : Prop :=
  ∀ p q : Point,
    (linePoints p q).length = max (q.x - p.x).natAbs (q.y - p.y).natAbs + 1
      ∧ (linePoints p q).head? = some p ∧ (linePoints p q).getLast? = some q

/-- The points of a line are those of the loop of 42_line_triangle.md R200: the first is `p`, the error term starts at
`dx + dy`, every turn but the last tests `e2 = 2 * err` against `dy` and `dx` for the next point and the next error term,
and the loop stops at its first point that is `q`. The list `es` holds the error term at each point. The variant is the
spec's own choice (log entry 15). So consecutive points differ by at most 1 in each coordinate (R201 (b)). -/
def Obligations.LinePointsFollowTheLoop : Prop :=
  (∀ p q : Point, ∃ es : List Int,
      es.length = (linePoints p q).length
        ∧ (linePoints p q)[0]? = some p
        ∧ es[0]? = some (((q.x - p.x).natAbs : Int) - ((q.y - p.y).natAbs : Int))
        ∧ ∀ (n : Nat) (k : Point) (e : Int), (linePoints p q)[n]? = some k → es[n]? = some e →
            (k = q → (linePoints p q).length = n + 1)
              ∧ (k ≠ q →
                (linePoints p q)[n + 1]? = some
                    ⟨if -((q.y - p.y).natAbs : Int) ≤ 2 * e then k.x + (if p.x < q.x then 1 else -1) else k.x,
                      if 2 * e ≤ ((q.x - p.x).natAbs : Int) then k.y + (if p.y < q.y then 1 else -1) else k.y⟩
                  ∧ es[n + 1]? = some
                    (e + (if -((q.y - p.y).natAbs : Int) ≤ 2 * e then -((q.y - p.y).natAbs : Int) else 0)
                      + (if 2 * e ≤ ((q.x - p.x).natAbs : Int) then ((q.x - p.x).natAbs : Int) else 0))))
    ∧ (∀ (p q : Point) (n : Nat) (k k' : Point),
        (linePoints p q)[n]? = some k → (linePoints p q)[n + 1]? = some k' →
          (k'.x - k.x).natAbs ≤ 1 ∧ (k'.y - k.y).natAbs ≤ 1)

/-- A horizontal, vertical or 45-degree line visits exactly the integer points of its segment, an inference of the spec
(42_line_triangle.md R201 (c)). -/
def Obligations.StraightLinesVisitTheWholeSegment : Prop :=
  (∀ (x0 x1 y : Int) (k : Point),
      k ∈ linePoints ⟨x0, y⟩ ⟨x1, y⟩ ↔ k.y = y ∧ min x0 x1 ≤ k.x ∧ k.x ≤ max x0 x1)
    ∧ (∀ (x y0 y1 : Int) (k : Point),
        k ∈ linePoints ⟨x, y0⟩ ⟨x, y1⟩ ↔ k.x = x ∧ min y0 y1 ≤ k.y ∧ k.y ≤ max y0 y1)
    ∧ (∀ (p q k : Point), (q.x - p.x).natAbs = (q.y - p.y).natAbs →
        (k ∈ linePoints p q ↔
          ∃ n : Nat, n ≤ (q.x - p.x).natAbs ∧ k = ⟨p.x + n * (q.x - p.x).sign, p.y + n * (q.y - p.y).sign⟩))

/-! ## Rules about every command -/

/-- The plain commands are their `*_LAYER` forms with Layer1, an inference of the spec (40_display.md R131,
43_layer_adapter.md R233). -/
def Obligations.PlainCommandsAreLayer1Forms : Prop :=
  ∀ s : State,
    (∀ x y, exec (.getPixel x y) s = exec (.getPixelLayer .layer1 x y) s)
      ∧ (∀ x y c, exec (.setPixel x y c) s = exec (.setPixelLayer .layer1 x y c) s)
      ∧ (∀ x y w h t c, exec (.drawRect x y w h t c) s = exec (.drawRectLayer .layer1 x y w h t c) s)
      ∧ (∀ a b c t col, exec (.drawTri a b c t col) s = exec (.drawTriLayer .layer1 a b c t col) s)

/-- Every command completes: it answers a next state, and none touches the engine, OVR, the operand registers, the
parameters or the host's side (10_state.md R31; 60_exceptions.md R273). -/
def Obligations.EveryCommandCompletesInItsFrame : Prop :=
  ∀ (i : Instr) (s : State), ∃ t, exec i s = .next t
    ∧ t = { s with
        ready := t.ready, err := t.err, width := t.width, height := t.height, orient := t.orient
        pixfmt := t.pixfmt, resColor := t.resColor, resValid := t.resValid, fb1 := t.fb1, fb2 := t.fb2 }

/-- 70_reset_and_hazards.md R301: after reset, and until an INIT succeeds, every command but INIT completes with
NotInitialized, changing nothing else except that a GET sets RESULT to 0. -/
def Obligations.WithoutADisplayOnlyInitRuns : Prop :=
  State.reset.ready = false
    ∧ (∀ (i : Instr) (s : State), s.ready = false → isInit i = false →
        exec i s = .next { s with
          err := 4#4
          resValid := if isGet i = true then false else s.resValid
          resColor := if isGet i = true then 0#16 else s.resColor })
    ∧ (∀ s t : State, step s = .next t → s.ready = false → t.ready = true →
        ∃ q w h o, s.turn = .engine ∧ s.eng = .busy q ∧ decode q = .legal (.init w h o 0) ∧ t.err = 0#4)

/-- 40_display.md R151: RESULT is written by the completion of a GET, always, and by no other command, legal or
illegal; a GET without a display writes 0. Of all steps only the completion of a GET and a reset change it. -/
def Obligations.ResultIsWrittenByGetsOnly : Prop :=
  (∀ (i : Instr) (s t : State), exec i s = .next t → isGet i = false →
      t.resValid = s.resValid ∧ t.resColor = s.resColor)
    ∧ (∀ (q : Latch) (why : Reject) (s t : State), decode q = .illegal why → complete q s = .next t →
        t.resValid = s.resValid ∧ t.resColor = s.resColor)
    ∧ (∀ (i : Instr) (s t : State) (b : Bool) (c : Color), isGet i = true →
        exec i { s with resValid := b, resColor := c } = .next t → exec i s = .next t)
    ∧ (∀ (i : Instr) (s t : State), exec i s = .next t → isGet i = true → s.ready = false → t.resultWord = 0)
    ∧ (∀ s t : State, step s = .next t →
        (t.resValid = s.resValid ∧ t.resColor = s.resColor)
          ∨ (∃ q i, s.turn = .engine ∧ s.eng = .busy q ∧ decode q = .legal i ∧ isGet i = true)
          ∨ (∃ x rest, s.turn = .host ∧ s.inputs = x :: rest ∧ resets s.cfg x = true ∧ t.resultWord = 0))

/-- 60_exceptions.md R271: the codes each command can complete with. -/
def Obligations.CodesEachCommandCompletesWith : Prop :=
  (∀ (i : Instr) (s t : State), exec i s = .next t →
      (isInit i = true → t.err = 0#4 ∨ t.err = 1#4 ∨ t.err = 2#4 ∨ t.err = 3#4)
        ∧ (isInit i = false → t.err = 0#4 ∨ t.err = 4#4))
    ∧ (∀ (q : Latch) (why : Reject) (s t : State), decode q = .illegal why → complete q s = .next t → t.err = 5#4)

/-- 60_exceptions.md R272: IllegalCommand first, then NotInitialized, then, for INIT, InvalidDimensions before
UnsupportedPixelFormat before CapacityExceeded. -/
def Obligations.StatusCodePriority : Prop :=
  ∀ (q : Latch) (s t : State), complete q s = .next t →
    match decode q with
    | .illegal _ => t.err = 5#4
    | .legal (.init w h _ f) =>
      t.err = if w = 0 ∨ h = 0 then 1#4 else if f ≠ 0 then 2#4 else if s.cfg.maxPixels < w * h then 3#4 else 0#4
    | .legal _ => t.err = if s.ready = true then 0#4 else 4#4

/-- Layer independence, an inference of the spec (40_display.md R154): a command leaves alone every layer it does not
target. -/
def Obligations.CommandsLeaveOtherLayersAlone : Prop :=
  ∀ (i : Instr) (s t : State) (L : Layer), exec i s = .next t → writesLayer i L = false → t.fb L = s.fb L

/-- Every command is idempotent in its effect on pixel storage (20_memory.md R75): issued twice with the same operands
it leaves the same storage as issued once. -/
def Obligations.CommandsAreIdempotentOnStorage : Prop :=
  ∀ (i : Instr) (s t u : State), i.wellFormed = true → Inv s → exec i s = .next t → exec i t = .next u →
    u.fb1 = t.fb1 ∧ u.fb2 = t.fb2

/-- Round-trip, an inference of the spec (40_display.md R152). -/
def Obligations.SetThenGetReturnsTheColour : Prop :=
  ∀ (s t u : State) (L : Layer) (x y : Nat) (c : Color), Inv s → s.ready = true →
    exec (.setPixelLayer L x y c) s = .next t → exec (.getPixelLayer L x y) t = .next u →
      u.resultWord = if x < s.W ∧ y < s.H then 0x00010000 ||| c.zeroExtend 32 else 0

/-- Construction validation, an inference of the spec (40_display.md R153): after a successful INIT and CLEAR c every
in-bounds GET_PIXEL gives c. -/
def Obligations.InitThenClearShowsTheColour : Prop :=
  ∀ (s t u v : State) (w h x y : Nat) (o : Orientation) (c : Color),
    0 < w → w < 65536 → 0 < h → h < 65536 → w * h ≤ s.cfg.maxPixels → x < w → y < h →
    exec (.init w h o 0) s = .next t → exec (.clear c) t = .next u → exec (.getPixel x y) u = .next v →
      v.resultWord = 0x00010000 ||| c.zeroExtend 32

/-! ## Rules about every step -/

/-- A step runs the held command (40_display.md R130): when the engine has the turn and the latched words decode to a
command, the step is that command's meaning, on the state whose schedule entry is used up, and then the engine is
Idle. Who has the turn, and that an entry is used up exactly where inputs remain, is the model's choice (log entry
5). -/
def Obligations.StepRunsTheHeldCommand : Prop :=
  ∀ (s : State) (q : Latch) (i : Instr), s.turn = .engine → s.eng = .busy q → decode q = .legal i →
    ∃ t, exec i s.spendTurn = .next t ∧ step s = .next { t with eng := .idle }
      ∧ s.spendTurn = { s with sched := if s.inputs = [] then s.sched else s.sched.tail }

/-- Who moves (10_state.md R30; the form of the schedule is the model's choice, log entry 5): the engine when it holds
a command and either nothing else is left to do or the schedule names it or has run out; else the host. -/
def Obligations.TurnIsTheEnginesOrTheHosts : Prop :=
  ∀ s : State, s.turn = .engine ↔
    s.busy = true ∧ (s.inputs = [] ∨ s.sched = [] ∨ ∃ rest, s.sched = .engine :: rest)

/-- The invariant of the machine (10_state.md R45, R37, R38, R41; 60_exceptions.md R270) is kept by every step from
every state that meets it. The canonical form of the layers within it is the model's own (log entry 2), and so is that
the parameters stand in the state (log entry 1); of the layers of a device without a display it says nothing else. -/
def Obligations.EveryStepKeepsTheInvariant : Prop :=
  ∀ s t : State, Inv s → step s = .next t → Inv t

/-- The invariant holds right after reset, with the parameters and the layers the model chose (log entries 1 and 3). -/
def Obligations.ResetMeetsTheInvariant : Prop := Inv State.reset

/-- SIZE and INFO change only at the completion of a successful INIT or at a reset (10_state.md R37, R45), and the
parameters never. -/
def Obligations.SizeAndInfoChangeOnlyAtInitOrReset : Prop :=
  ∀ s t : State, step s = .next t →
    t.cfg = s.cfg
      ∧ ((t.sizeWord = s.sizeWord ∧ t.infoWord = s.infoWord)
        ∨ (∃ q w h o, s.turn = .engine ∧ s.eng = .busy q ∧ decode q = .legal (.init w h o 0)
            ∧ t.ready = true ∧ t.err = 0#4 ∧ t.W = w ∧ t.H = h ∧ t.orient = o)
        ∨ (∃ x rest, s.turn = .host ∧ s.inputs = x :: rest ∧ resets s.cfg x = true
            ∧ t.ready = false ∧ t.sizeWord = 0 ∧ t.infoWord = 0))

/-- A held command completes, or is discarded by a reset, after finitely many steps, under every schedule (10_state.md
R30, 70_reset_and_hazards.md R309). The bound is the model's (log entry 5). -/
def Obligations.HeldCommandsComplete : Prop :=
  ∀ s : State, s.busy = true → (∀ x ∈ s.inputs, supported s.cfg x = true) →
    ∃ n t, n ≤ s.sched.length + 1 ∧ Sys2Proof.core.run n s = .next t ∧ t.eng = .idle

/-- WAIT is the ordering point (20_memory.md R81, 30_encoding.md R110): under every schedule it ends, and then the
device is exactly as the completion of the held command leaves it, and the program has ended if the WAIT was the host's
last input (70_reset_and_hazards.md R310). The bound is the model's (log entry 5), and so are a WAIT that polls once a step
(log entry 16) and the field by which a program ends (log entry 18). -/
def Obligations.WaitEndsWithTheCommandCompleted : Prop :=
  ∀ (s : State) (q : Latch) (rest : List Input), s.eng = .busy q → s.inputs = .wait :: rest →
    ∃ n t u, n ≤ s.sched.length + 2 ∧ Sys2Proof.core.run n s = .next t ∧ complete q s = .next u
      ∧ t.device = u.device ∧ t.inputs = rest ∧ ((∀ x ∈ rest, x.byHost = false) → t.ended = true)

/-- 30_encoding.md R110: the expansion of a command, performed by an idle device, writes the ARG registers the command
reads and no other, and issues it. The field `unconfirmed` is the model's own (log entry 18). -/
def Obligations.AssembledCommandsAreIssued : Prop :=
  ∀ (s : State) (i : Instr) (rest : List Input), i.wellFormed = true → s.eng = .idle →
    s.inputs = assemble s.cfg.base i ++ rest →
      ∃ n t q, Sys2Proof.core.run n s = .next t
        ∧ t = { s with
            eng := .busy q, inputs := rest, unconfirmed := true
            arg0 := if (listedBits i).a0 = 0 then s.arg0 else (encode i).a0
            arg1 := if (listedBits i).a1 = 0 then s.arg1 else (encode i).a1
            arg2 := if (listedBits i).a2 = 0 then s.arg2 else (encode i).a2
            arg3 := if (listedBits i).a3 = 0 then s.arg3 else (encode i).a3 }
        ∧ decode q = .legal i

/-- A command and its WAIT, from an idle device: under every schedule the host ends with exactly the command's effect,
the operand registers as the expansion wrote them (20_memory.md R79 to R81, 30_encoding.md R110), and the program has
ended if the WAIT was the host's last input (70_reset_and_hazards.md R310). The field by which a program ends is the model's
choice (log entry 18). -/
def Obligations.AssembledCommandsTakeEffect : Prop :=
  ∀ (s : State) (i : Instr) (rest : List Input), i.wellFormed = true → s.eng = .idle →
    s.inputs = assemble s.cfg.base i ++ .wait :: rest →
      ∃ n t u, Sys2Proof.core.run n s = .next t
        ∧ exec i { s with
            arg0 := if (listedBits i).a0 = 0 then s.arg0 else (encode i).a0
            arg1 := if (listedBits i).a1 = 0 then s.arg1 else (encode i).a1
            arg2 := if (listedBits i).a2 = 0 then s.arg2 else (encode i).a2
            arg3 := if (listedBits i).a3 = 0 then s.arg3 else (encode i).a3 } = .next u
        ∧ t.device = u.device ∧ t.inputs = rest ∧ ((∀ x ∈ rest, x.byHost = false) → t.ended = true)

/-- 70_reset_and_hazards.md R302: pixel contents while READY = 0 are unobservable: two states that differ only in them
step alike, show the host the same, and stay so. -/
def Obligations.HiddenPixelsAreUnobservable : Prop :=
  ∀ s s' : State, SameButHiddenPixels s s' →
    s'.observe = s.observe
      ∧ (∀ t, step s = .next t → ∃ t', step s' = .next t' ∧ SameButHiddenPixels t t')
      ∧ (∀ why, step s = .refused why → step s' = .refused why)

/-! ## The host's functions -/

/-- 44_color_snapshot.md R251 and R252 as numbers: truncation to 5, 6 and 5 bits, and expansion by replicating the
high bits; 0 goes to 0 and the channel maximum to 255. -/
def Obligations.ColourConversionsAreTheirFormulas : Prop :=
  (∀ r g b : Byte, (fromRGB888 r g b).toNat = (r.toNat / 8) * 2048 + (g.toNat / 4) * 32 + b.toNat / 8)
    ∧ (∀ c : Color,
        (toRGB888 c).r.toNat = (c.toNat / 2048) * 8 + c.toNat / 2048 / 4
          ∧ (toRGB888 c).g.toNat = (c.toNat / 32 % 64) * 4 + c.toNat / 32 % 64 / 16
          ∧ (toRGB888 c).b.toNat = (c.toNat % 32) * 8 + c.toNat % 32 / 4)

/-- 44_color_snapshot.md R252: expanding a constructed colour gives the three channels back exactly when each channel's
discarded low bits are its replicated high bits. -/
def Obligations.ColourRoundTripIsExactWhenLowBitsReplicate : Prop :=
  ∀ r g b : Byte,
    toRGB888 (fromRGB888 r g b) = ⟨r, g, b⟩ ↔
      r.toNat % 8 = r.toNat / 32 ∧ g.toNat % 4 = g.toNat / 64 ∧ b.toNat % 8 = b.toNat / 32

/-- 44_color_snapshot.md R253: the stream starts with `P6`, a newline, the decimal numerals of W and H with a space
between, a newline, `255` and a newline; it has `len(header) + 3*W*H` bytes, and pixel (x, y) of Layer1 stands at
`len(header) + 3*(y*W + x)`, in the order R8, G8, B8. The form of the numerals and the byte of the newline are the spec's
general knowledge (log entry 15). -/
def Obligations.SnapshotHoldsEveryPixelAtItsOffset : Prop :=
  ∀ s : State,
    s.snapshot.length = (ppmHeader s.W s.H).length + 3 * (s.W * s.H)
      ∧ s.snapshot.take (ppmHeader s.W s.H).length = ppmHeader s.W s.H
      ∧ (∃ dw dh : List Byte, IsNumeral dw s.W ∧ IsNumeral dh s.H
          ∧ ppmHeader s.W s.H = [0x50, 0x36, 0x0A] ++ dw ++ [0x20] ++ dh ++ [0x0A, 0x32, 0x35, 0x35, 0x0A])
      ∧ ∀ x y : Nat, x < s.W → y < s.H →
          (s.snapshot.drop ((ppmHeader s.W s.H).length + 3 * (y * s.W + x))).take 3 =
            [(toRGB888 (Memory.read s.fb1 (y * s.W + x))).r, (toRGB888 (Memory.read s.fb1 (y * s.W + x))).g,
              (toRGB888 (Memory.read s.fb1 (y * s.W + x))).b]

/-- Reading one pixel out (44_color_snapshot.md R254): GET_PIXEL, WAIT and a read of RESULT, from an idle device with a
display, return the stored colour of Layer1 with VALID set, and change no pixel. -/
def Obligations.ReadOutReturnsTheStoredPixel : Prop :=
  ∀ (s : State) (x y : Nat) (rest : List Input), Inv s → s.ready = true → s.eng = .idle → x < s.W → y < s.H →
    s.inputs = readOutPixel s.cfg.base x y ++ rest →
      ∃ n t v, Sys2Proof.core.run n s = .next t ∧ t.inputs = rest ∧ t.eng = .idle
        ∧ t.reads.head? = some ⟨0x24, v⟩
        ∧ resultValid v = true ∧ resultColor v = Memory.read s.fb1 (y * s.W + x)
        ∧ t.fb1 = s.fb1 ∧ t.fb2 = s.fb2 ∧ t.sizeWord = s.sizeWord

/-- The end of a host program (70_reset_and_hazards.md R310): it ends with no access of the host left and a STATUS read
after the last CMD write that returned BUSY = 0, whatever resets the platform has yet to assert, and then the engine is
idle; a CMD write, issued or dropped, asks for such a read again, no other step answers it, and an ended program stays
so. What the end shows with a display is every pixel of both layers. That the model keeps this in the field
`unconfirmed`, and what a program without a CMD write needs, is its choice (log entry 18). -/
def Obligations.ProgramsEndWithAStatusRead : Prop :=
  (∀ (s : State) (v : Word), ∃ t, performAccess (.write (s.cfg.base + 0x10) .w32 v) s = .next t ∧ t.ended = false)
    ∧ (∀ s : State, s.eng = .idle → (∀ x ∈ s.inputs, x.byHost = false) →
        ∃ t, performAccess (.read (s.cfg.base + 0x04) .w32) s = .next t ∧ t.ended = true)
    ∧ (∀ (s : State) (x : Input), x ∈ s.inputs → x.byHost = true → s.ended = false)
    ∧ (∀ s t : State, s.ended = true → step s = .next t → t.ended = true)
    ∧ (∀ s t : State, step s = .next t → s.unconfirmed = true → t.unconfirmed = false →
        s.eng = .idle ∧ ∃ v : Word, t.reads = ⟨0x04, v⟩ :: s.reads ∧ v.getLsbD 0 = false)
    ∧ State.reset.commandsCounted
    ∧ (∀ s t : State, s.commandsCounted → step s = .next t → t.commandsCounted)
    ∧ (∀ s : State, s.commandsCounted → s.ended = true → s.eng = .idle)
    ∧ (∀ s : State, s.ready = false → s.observe.pixels = none)
    ∧ (∀ (s : State) (x y : Nat), s.ready = true → x < s.W → y < s.H →
        ∃ ps, s.observe.pixels = some ps
          ∧ ps.1[y * s.W + x]? = some (Memory.read s.fb1 (y * s.W + x))
          ∧ ps.2[y * s.W + x]? = some (Memory.read s.fb2 (y * s.W + x)))

end
end

