-- ==== Sys2Proof/Laws/Words.lean ====
section
/-! SUPPORT. The fields of every packed word, read back from it, and the ranges of the operand fields. -/

namespace Sys2Proof

/-! ## Operand words -/

@[simp] theorem lo16_pack (lo hi : BitVec 16) : lo16 (pack lo hi) = lo := by
  unfold lo16 pack
  exact BitVec.extractLsb'_append_eq_right

@[simp] theorem hi16_pack (lo hi : BitVec 16) : hi16 (pack lo hi) = hi := by
  unfold hi16 pack
  exact BitVec.extractLsb'_append_eq_left

/-- A word is its two halves. -/
theorem pack_lo16_hi16 (v : Word) : pack (lo16 v) (hi16 v) = v := by
  unfold pack lo16 hi16
  exact (BitVec.extractLsb'_append_extractLsb'_eq_extractLsb' rfl).trans (by ext i hi; simp)

theorem u16_ofU16 {n : Nat} (h : fitsU16 n = true) : u16 (ofU16 n) = n := by
  unfold fitsU16 at h
  simp only [decide_eq_true_eq] at h
  simp only [u16, ofU16, BitVec.toNat_ofNat]
  omega

theorem ofU16_u16 (v : BitVec 16) : ofU16 (u16 v) = v := by simp [u16, ofU16]

theorem fitsU16_u16 (v : BitVec 16) : fitsU16 (u16 v) = true := by
  have := v.isLt
  exact decide_eq_true (by unfold u16; omega)

/-- `s16` is the value of the field read as two's complement (00_scope.md R7). -/
theorem s16_eq_toInt (v : BitVec 16) : s16 v = v.toInt := by
  have hv := v.isLt
  have hm : v.getLsbD 15 = decide (2 ^ 15 ≤ v.toNat) := by
    exact BitVec.msb_eq_decide v
  unfold s16
  rw [BitVec.toInt_eq_toNat_cond, hm]
  by_cases h : 2 ^ 15 ≤ v.toNat
  · rw [if_pos (by simpa using h), if_neg (by omega)]; norm_num
  · rw [if_neg (by simpa using h), if_pos (by omega)]

theorem s16_ofS16 {i : Int} (h : fitsI16 i = true) : s16 (ofS16 i) = i := by
  simp only [fitsI16, Bool.and_eq_true, decide_eq_true_eq] at h
  rw [s16_eq_toInt, ofS16, BitVec.toInt_ofInt]
  exact Int.bmod_eq_of_le (by norm_num; omega) (by norm_num; omega)

theorem ofS16_s16 (v : BitVec 16) : ofS16 (s16 v) = v := by
  rw [s16_eq_toInt, ofS16, BitVec.ofInt_toInt]

theorem fitsI16_s16 (v : BitVec 16) : fitsI16 (s16 v) = true := by
  have h1 := BitVec.toInt_lt (x := v)
  have h2 := BitVec.le_toInt (x := v)
  rw [s16_eq_toInt]
  simp only [fitsI16, Bool.and_eq_true, decide_eq_true_eq]
  norm_num at h1 h2
  omega

@[simp] theorem orientOf_orientBits (o : Orientation) : orientOf (orientBits o) = o := by cases o <;> rfl

theorem orientBits_orientOf (v : BitVec 2) : orientBits (orientOf v) = v := by revert v; decide

theorem initWord_orient (o : Orientation) (f : Nat) : (initWord o f).extractLsb' 0 2 = orientBits o := by
  unfold initWord
  exact (BitVec.extractLsb'_append_eq_of_add_le (by decide)).trans BitVec.extractLsb'_append_eq_right

theorem initWord_format (o : Orientation) (f : Nat) : (initWord o f).extractLsb' 8 4 = BitVec.ofNat 4 f := by
  unfold initWord
  exact (BitVec.extractLsb'_append_eq_of_le (by decide)).trans BitVec.extractLsb'_append_eq_right

/-! ## What a mask of the listed bits keeps -/

theorem and_everyBit (v : Word) : v &&& 0xFFFFFFFF#32 = v := BitVec.and_allOnes

/-- The colour operand word of the low half of a word. -/
theorem colorWord_lo16 (v : Word) : colorWord (lo16 v) = v &&& 0x0000FFFF#32 := by
  refine BitVec.eq_of_getLsbD_eq fun i hi => ?_
  simp only [colorWord, pack, lo16, BitVec.getLsbD_append, BitVec.getLsbD_extractLsb', BitVec.getLsbD_and]
  interval_cases i <;> simp

/-- ARG1 of INIT, from the fields of a word. -/
theorem initWord_fields (v : Word) :
    initWord (orientOf (v.extractLsb' 0 2)) (v.extractLsb' 8 4).toNat = v &&& 0x00000F03#32 := by
  rw [initWord, orientBits_orientOf, BitVec.ofNat_toNat]
  refine BitVec.eq_of_getLsbD_eq fun i hi => ?_
  simp only [BitVec.getLsbD_append, BitVec.getLsbD_setWidth, BitVec.getLsbD_extractLsb', BitVec.getLsbD_and]
  interval_cases i <;> simp

/-! ## Command words -/

theorem commandWord_op (op : BitVec 8) (l : BitVec 1) : (commandWord op l).extractLsb' 0 8 = op := by
  unfold commandWord
  exact BitVec.extractLsb'_append_eq_right

theorem commandWord_rsv (op : BitVec 8) (l : BitVec 1) : (commandWord op l).extractLsb' 9 23 = 0#23 := by
  unfold commandWord
  exact (BitVec.extractLsb'_append_eq_of_le (by decide)).trans
    ((BitVec.extractLsb'_append_eq_of_le (by decide)).trans (by simp))

theorem commandWord_layer (op : BitVec 8) (l : BitVec 1) : (commandWord op l).getLsbD 8 = l.getLsbD 0 := by
  unfold commandWord
  refine (BitVec.getLsbD_append (x := 0#23 ++ l) (y := op) (i := 8)).trans ?_
  rw [if_neg (by decide)]
  refine (BitVec.getLsbD_append (x := 0#23) (y := l) (i := 0)).trans ?_
  rw [if_pos (by decide)]

/-- A word whose reserved bits are 0 is the command word of its own fields. -/
theorem eq_commandWord {cw : Word} (h : cw.extractLsb' 9 23 = 0#23) :
    cw = commandWord (cw.extractLsb' 0 8) (cw.extractLsb' 8 1) := by
  unfold commandWord
  rw [← h]
  have h1 : cw.extractLsb' 9 23 ++ cw.extractLsb' 8 1 = cw.extractLsb' 8 24 :=
    BitVec.extractLsb'_append_extractLsb'_eq_extractLsb' rfl
  rw [h1]
  have h2 : cw.extractLsb' 8 24 ++ cw.extractLsb' 0 8 = cw.extractLsb' 0 32 :=
    BitVec.extractLsb'_append_extractLsb'_eq_extractLsb' rfl
  exact (h2.trans (by ext i hi; simp)).symm

end Sys2Proof

namespace Sys2Proof.Machine

/-! ## Register words -/

theorem statusBits_fields (b r o : Bool) (e : BitVec 4) :
    (statusBits b r o e).getLsbD 0 = b ∧ (statusBits b r o e).getLsbD 1 = r ∧ (statusBits b r o e).getLsbD 2 = o
      ∧ (statusBits b r o e).getLsbD 3 = false ∧ (statusBits b r o e).extractLsb' 4 4 = e
      ∧ (statusBits b r o e).extractLsb' 8 24 = 0 := by
  revert b r o e
  decide

theorem State.sizeWord_width (s : State) : s.sizeWord.extractLsb' 0 16 = s.width := by
  unfold State.sizeWord
  exact BitVec.extractLsb'_append_eq_right

theorem State.sizeWord_height (s : State) : s.sizeWord.extractLsb' 16 16 = s.height := by
  unfold State.sizeWord
  exact BitVec.extractLsb'_append_eq_left

theorem State.infoWord_orient (s : State) : s.infoWord.extractLsb' 0 2 = orientBits s.orient := by
  unfold State.infoWord
  exact (BitVec.extractLsb'_append_eq_of_add_le (by decide)).trans BitVec.extractLsb'_append_eq_right

theorem State.infoWord_pixfmt (s : State) : s.infoWord.extractLsb' 8 4 = s.pixfmt := by
  unfold State.infoWord
  exact (BitVec.extractLsb'_append_eq_of_le (by decide)).trans BitVec.extractLsb'_append_eq_right

theorem State.infoWord_reserved_low (s : State) : s.infoWord.extractLsb' 2 6 = 0#6 := by
  unfold State.infoWord
  exact (BitVec.extractLsb'_append_eq_of_add_le (by decide)).trans BitVec.extractLsb'_append_eq_left

theorem State.infoWord_reserved_high (s : State) : s.infoWord.extractLsb' 12 20 = 0#20 := by
  unfold State.infoWord
  exact (BitVec.extractLsb'_append_eq_of_le (by decide)).trans BitVec.extractLsb'_append_eq_left

theorem State.resultWord_color (s : State) : s.resultWord.extractLsb' 0 16 = s.resColor := by
  unfold State.resultWord
  exact BitVec.extractLsb'_append_eq_right

theorem State.resultWord_valid (s : State) : s.resultWord.getLsbD 16 = s.resValid := by
  unfold State.resultWord
  refine (BitVec.getLsbD_append (x := 0#15 ++ BitVec.ofBool s.resValid) (y := s.resColor) (i := 16)).trans ?_
  rw [if_neg (by decide)]
  refine (BitVec.getLsbD_append (x := 0#15) (y := BitVec.ofBool s.resValid) (i := 0)).trans ?_
  rw [if_pos (by decide)]
  cases s.resValid <;> rfl

theorem State.resultWord_reserved (s : State) : s.resultWord.extractLsb' 17 15 = 0#15 := by
  unfold State.resultWord
  exact (BitVec.extractLsb'_append_eq_of_le (by decide)).trans BitVec.extractLsb'_append_eq_left

end Sys2Proof.Machine
end

