-- ==== Sys2Proof/Laws/Decode.lean ====
section
/-! SUPPORT. What the decoder can answer, said once, and what it answers on a command word. -/

namespace Sys2Proof

theorem pointOf_pointWord {p : Point} (h : p.fits = true) : pointOf (pointWord p) = p := by
  simp only [Point.fits, Bool.and_eq_true] at h
  obtain ⟨x, y⟩ := p
  simp [pointOf, pointWord, s16_ofS16 h.1, s16_ofS16 h.2]

theorem pointWord_pointOf (v : Word) : pointWord (pointOf v) = v := by
  simp [pointWord, pointOf, ofS16_s16, pack_lo16_hi16]

@[simp] theorem layerOf_layerBit (l : Layer) : layerOf ((layerBit l).getLsbD 0) = l := by cases l <;> rfl

/-- Decoding a command word looks only at its opcode and its layer bit. -/
theorem decode_commandWord (op : BitVec 8) (l : BitVec 1) (a0 a1 a2 a3 : Word) :
    decode ⟨commandWord op l, a0, a1, a2, a3⟩ =
      decodeOp op.toNat (l.getLsbD 0) ⟨commandWord op l, a0, a1, a2, a3⟩ := by
  unfold decode
  simp only [commandWord_rsv, commandWord_op, commandWord_layer, if_true]

/-- Everything the decoder can read (30_encoding.md R102, R104). -/
theorem decodeOp_cases {op : Nat} {l : Bool} {q : Latch} {i : Instr} (h : decodeOp op l q = .legal i) :
    (op = 0x01 ∧ l = false ∧ i = .init (u16 (lo16 q.a0)) (u16 (hi16 q.a0)) (orientOf (q.a1.extractLsb' 0 2))
        (q.a1.extractLsb' 8 4).toNat) ∨
      (op = 0x02 ∧ l = false ∧ i = .clear (lo16 q.a0)) ∨
      (op = 0x03 ∧ i = .clearLayer (layerOf l) (lo16 q.a0)) ∨
      (op = 0x04 ∧ l = false ∧ i = .getPixel (u16 (lo16 q.a0)) (u16 (hi16 q.a0))) ∨
      (op = 0x05 ∧ i = .getPixelLayer (layerOf l) (u16 (lo16 q.a0)) (u16 (hi16 q.a0))) ∨
      (op = 0x06 ∧ l = false ∧ i = .setPixel (u16 (lo16 q.a0)) (u16 (hi16 q.a0)) (lo16 q.a1)) ∨
      (op = 0x07 ∧ i = .setPixelLayer (layerOf l) (u16 (lo16 q.a0)) (u16 (hi16 q.a0)) (lo16 q.a1)) ∨
      (op = 0x08 ∧ l = false ∧ i = .drawRect (s16 (lo16 q.a0)) (s16 (hi16 q.a0)) (u16 (lo16 q.a1)) (u16 (hi16 q.a1))
        (u16 (hi16 q.a3)) (lo16 q.a3)) ∨
      (op = 0x09 ∧ i = .drawRectLayer (layerOf l) (s16 (lo16 q.a0)) (s16 (hi16 q.a0)) (u16 (lo16 q.a1))
        (u16 (hi16 q.a1)) (u16 (hi16 q.a3)) (lo16 q.a3)) ∨
      (op = 0x0A ∧ l = false ∧ i = .drawTri (pointOf q.a0) (pointOf q.a1) (pointOf q.a2) (u16 (hi16 q.a3))
        (lo16 q.a3)) ∨
      (op = 0x0B ∧ i = .drawTriLayer (layerOf l) (pointOf q.a0) (pointOf q.a1) (pointOf q.a2) (u16 (hi16 q.a3))
        (lo16 q.a3)) := by
  unfold decodeOp at h
  split at h
  all_goals (try unfold plain at h)
  all_goals (cases l <;> simp_all)

/-- A word that decodes to a command has its reserved bits 0. -/
theorem decode_legal {q : Latch} {i : Instr} (h : decode q = .legal i) :
    q.cw.extractLsb' 9 23 = 0#23 ∧ decodeOp (q.cw.extractLsb' 0 8).toNat (q.cw.getLsbD 8) q = .legal i := by
  unfold decode at h
  split at h
  · exact ⟨‹_›, h⟩
  · cases h

/-! ## Byte images -/

theorem ofLanes_lanes (v : Word) : ofLanes (lane v 0) (lane v 1) (lane v 2) (lane v 3) = v := by
  unfold ofLanes lane
  have h1 : v.extractLsb' 24 8 ++ v.extractLsb' 16 8 = v.extractLsb' 16 16 :=
    BitVec.extractLsb'_append_extractLsb'_eq_extractLsb' rfl
  have h2 : v.extractLsb' 16 16 ++ v.extractLsb' 8 8 = v.extractLsb' 8 24 :=
    BitVec.extractLsb'_append_extractLsb'_eq_extractLsb' rfl
  have h3 : v.extractLsb' 8 24 ++ v.extractLsb' 0 8 = v.extractLsb' 0 32 :=
    BitVec.extractLsb'_append_extractLsb'_eq_extractLsb' rfl
  rw [h1, h2]
  exact h3.trans (by ext i hi; simp)

theorem takeWord_wordBytes (v : Word) (rest : List Byte) : takeWord (wordBytes v ++ rest) = some (v, rest) := by
  simp [wordBytes, takeWord, ofLanes_lanes]

/-- Decoding the byte image of a latch is decoding the latch (20_memory.md R73). -/
theorem decodeBytes_latchBytes (q : Latch) : decodeBytes (latchBytes q) = decode q := by
  have h4 : takeWord (wordBytes q.a3) = some (q.a3, []) := by
    have := takeWord_wordBytes q.a3 []
    rwa [List.append_nil] at this
  simp only [decodeBytes, latchBytes, latchOfBytes, List.append_assoc, takeWord_wordBytes, h4, Option.bind_some,
    Option.map_some]

end Sys2Proof
end

