-- ==== Sys2Proof/Laws/Memory.lean ====
section
/-! SUPPORT. The laws of the pixel storage: read after write, the canonical form kept by every operation, equal
contents being equal data. -/

namespace Sys2Proof.Machine

/-- An unlisted pixel is BLACK. -/
theorem Memory.unlisted_eq : Memory.unlisted = BLACK := rfl

theorem Memory.read_nil (i : Nat) : Memory.read [] i = Memory.unlisted := rfl

theorem Memory.read_cons (k : Nat) (c : Color) (m : Memory) (i : Nat) :
    Memory.read ((k, c) :: m) i = if k = i then c else Memory.read m i := rfl

theorem Memory.wfFrom_cons (lo k : Nat) (c : Color) (m : Memory) :
    Memory.wfFrom lo ((k, c) :: m) = true ↔ lo ≤ k ∧ c ≠ Memory.unlisted ∧ Memory.wfFrom (k + 1) m = true := by
  simp [Memory.wfFrom, and_assoc]

theorem Memory.wfFrom_mono {lo lo' : Nat} {m : Memory} (h : Memory.wfFrom lo m = true) (hl : lo' ≤ lo) :
    Memory.wfFrom lo' m = true := by
  cases m with
  | nil => rfl
  | cons p m =>
    rw [Memory.wfFrom_cons] at h ⊢
    exact ⟨hl.trans h.1, h.2⟩

/-- Below its lowest possible index a canonical memory reads as unlisted. -/
theorem Memory.read_below {lo : Nat} {m : Memory} (h : Memory.wfFrom lo m = true) {i : Nat} (hi : i < lo) :
    Memory.read m i = Memory.unlisted := by
  induction m generalizing lo with
  | nil => rfl
  | cons p m ih =>
    obtain ⟨k, c⟩ := p
    rw [Memory.wfFrom_cons] at h
    rw [Memory.read_cons, if_neg (by omega)]
    exact ih h.2.2 (by omega)

/-- Read after write, at the written index and at every other. -/
theorem Memory.read_write_of_wfFrom {lo : Nat} {m : Memory} (h : Memory.wfFrom lo m = true) (i j : Nat) (c : Color) :
    Memory.read (Memory.write m i c) j = if j = i then c else Memory.read m j := by
  induction m generalizing lo with
  | nil =>
    by_cases hc : c = Memory.unlisted <;> by_cases hj : j = i <;>
      simp_all [Memory.write, Memory.read]
    exact fun h => hj h.symm
  | cons p m ih =>
    obtain ⟨k, d⟩ := p
    rw [Memory.wfFrom_cons] at h
    obtain ⟨-, -, hm⟩ := h
    have hbelow : ∀ n, n ≤ k → Memory.read m n = Memory.unlisted := fun n hn => Memory.read_below hm (by omega)
    simp only [Memory.write]
    split
    · split
      · subst_vars
        rw [Memory.read_cons]
        by_cases hj : j = i
        · subst hj; rw [if_neg (by omega), if_pos rfl, hbelow _ (by omega)]
        · simp [hj]
      · simp only [Memory.read_cons, eq_comm]
    · split
      · subst_vars
        split
        · subst_vars
          rw [Memory.read_cons]
          by_cases hj : j = k
          · subst hj; simp [hbelow]
          · simp [hj, Ne.symm hj]
        · simp only [Memory.read_cons, eq_comm]
          by_cases hj : j = k <;> simp [hj]
      · simp only [Memory.read_cons, ih hm]
        by_cases hj : j = i
        · subst hj; rw [if_neg (by omega), if_pos rfl, if_pos rfl]
        · simp [hj]

theorem Memory.read_write {m : Memory} (h : Memory.wf m = true) (i j : Nat) (c : Color) :
    Memory.read (Memory.write m i c) j = if j = i then c else Memory.read m j :=
  Memory.read_write_of_wfFrom h i j c

theorem Memory.write_wfFrom {lo : Nat} {m : Memory} (h : Memory.wfFrom lo m = true) {i : Nat} (hi : lo ≤ i)
    (c : Color) : Memory.wfFrom lo (Memory.write m i c) = true := by
  induction m generalizing lo with
  | nil =>
    by_cases hc : c = Memory.unlisted
    · simp [Memory.write, hc, Memory.wfFrom]
    · simp [Memory.write, hc, Memory.wfFrom, hi]
  | cons p m ih =>
    obtain ⟨k, d⟩ := p
    have h' := h
    rw [Memory.wfFrom_cons] at h
    simp only [Memory.write]
    split
    · split
      · exact h'
      · rw [Memory.wfFrom_cons, Memory.wfFrom_cons]
        exact ⟨hi, ‹_›, by omega, h.2⟩
    · split
      · split
        · exact Memory.wfFrom_mono h.2.2 (by omega)
        · rw [Memory.wfFrom_cons]
          exact ⟨hi, ‹_›, Memory.wfFrom_mono h.2.2 (by omega)⟩
      · rw [Memory.wfFrom_cons]
        exact ⟨h.1, h.2.1, ih h.2.2 (by omega)⟩

/-- A write keeps the canonical form. -/
theorem Memory.write_wf {m : Memory} (h : Memory.wf m = true) (i : Nat) (c : Color) :
    Memory.wf (Memory.write m i c) = true :=
  Memory.write_wfFrom h (Nat.zero_le i) c

theorem Memory.mem_write {m : Memory} {i : Nat} {c : Color} {p : Nat × Color} (h : p ∈ Memory.write m i c) :
    p = (i, c) ∨ p ∈ m := by
  induction m with
  | nil =>
    simp only [Memory.write] at h
    split at h <;> simp_all
  | cons q m ih =>
    obtain ⟨k, d⟩ := q
    simp only [Memory.write] at h
    split at h
    · split at h <;> simp_all
    · split at h
      · split at h <;> simp_all
        tauto
      · rcases List.mem_cons.mp h with h | h
        · simp [h]
        · rcases ih h with h | h <;> simp [h]

theorem Memory.within_iff {n : Nat} {m : Memory} : Memory.within n m = true ↔ ∀ p ∈ m, p.1 < n := by
  simp [Memory.within]

/-- A write at one of the first `n` indices keeps a memory within them. -/
theorem Memory.write_within {n : Nat} {m : Memory} (h : Memory.within n m = true) {i : Nat} (hi : i < n) (c : Color) :
    Memory.within n (Memory.write m i c) = true := by
  rw [Memory.within_iff] at h ⊢
  intro p hp
  rcases Memory.mem_write hp with rfl | hp
  · exact hi
  · exact h p hp

/-- Outside its bound a memory reads as unlisted. -/
theorem Memory.read_outside {n : Nat} {m : Memory} (h : Memory.within n m = true) {i : Nat} (hi : n ≤ i) :
    Memory.read m i = Memory.unlisted := by
  induction m with
  | nil => rfl
  | cons p m ih =>
    obtain ⟨k, c⟩ := p
    rw [Memory.within_iff] at h
    have hk := h (k, c) (by simp)
    rw [Memory.read_cons, if_neg (by simp at hk; omega)]
    exact ih (Memory.within_iff.mpr fun p hp => h p (by simp [hp]))

/-! ## A layer filled with one colour -/

theorem Memory.wfFrom_map_range' (c : Color) (hc : c ≠ Memory.unlisted) (n lo lo' : Nat) (h : lo' ≤ lo) :
    Memory.wfFrom lo' ((List.range' lo n).map fun i => (i, c)) = true := by
  induction n generalizing lo lo' with
  | zero => rfl
  | succ n ih =>
    rw [List.range'_succ, List.map_cons, Memory.wfFrom_cons]
    exact ⟨h, hc, ih (lo + 1) (lo + 1) le_rfl⟩

theorem Memory.filled_wf (n : Nat) (c : Color) : Memory.wf (Memory.filled n c) = true := by
  unfold Memory.filled
  split
  · rfl
  · rw [List.range_eq_range']
    exact Memory.wfFrom_map_range' c ‹_› n 0 0 le_rfl

theorem Memory.filled_within (n : Nat) (c : Color) : Memory.within n (Memory.filled n c) = true := by
  rw [Memory.within_iff]
  unfold Memory.filled
  split <;> simp

theorem Memory.read_map_range' (c : Color) (n lo i : Nat) :
    Memory.read ((List.range' lo n).map fun i => (i, c)) i = if lo ≤ i ∧ i < lo + n then c else Memory.unlisted := by
  induction n generalizing lo with
  | zero => rw [if_neg (by omega)]; rfl
  | succ n ih =>
    rw [List.range'_succ, List.map_cons, Memory.read_cons, ih]
    by_cases h : lo = i
    · subst h; simp
    · rw [if_neg h]
      by_cases h' : lo + 1 ≤ i ∧ i < lo + 1 + n
      · rw [if_pos h', if_pos (by omega)]
      · rw [if_neg h', if_neg (by omega)]

theorem Memory.read_filled (n : Nat) (c : Color) (i : Nat) :
    Memory.read (Memory.filled n c) i = if i < n then c else Memory.unlisted := by
  unfold Memory.filled
  split
  · next h => simp [h, Memory.read_nil]
  · rw [List.range_eq_range', Memory.read_map_range']
    simp

/-! ## Equal contents are equal data -/

theorem Memory.eq_of_read_of_wfFrom {lo : Nat} {m m' : Memory} (h : Memory.wfFrom lo m = true)
    (h' : Memory.wfFrom lo m' = true) (heq : ∀ i, Memory.read m i = Memory.read m' i) : m = m' := by
  induction m generalizing lo m' with
  | nil =>
    cases m' with
    | nil => rfl
    | cons p m' =>
      obtain ⟨k, c⟩ := p
      rw [Memory.wfFrom_cons] at h'
      have := heq k
      rw [Memory.read_nil, Memory.read_cons, if_pos rfl] at this
      exact absurd this.symm h'.2.1
  | cons p m ih =>
    obtain ⟨k, c⟩ := p
    have hw := (Memory.wfFrom_cons ..).mp h
    cases m' with
    | nil =>
      have := heq k
      rw [Memory.read_nil, Memory.read_cons, if_pos rfl] at this
      exact absurd this hw.2.1
    | cons p' m' =>
      obtain ⟨k', c'⟩ := p'
      have hw' := (Memory.wfFrom_cons ..).mp h'
      have hk : k = k' := by
        rcases Nat.lt_trichotomy k k' with hlt | he | hlt
        · have := heq k
          rw [Memory.read_cons, if_pos rfl, Memory.read_cons, if_neg (by omega),
            Memory.read_below hw'.2.2 (by omega)] at this
          exact absurd this hw.2.1
        · exact he
        · have := heq k'
          rw [Memory.read_cons, if_neg (by omega), Memory.read_below hw.2.2 (by omega), Memory.read_cons,
            if_pos rfl] at this
          exact absurd this.symm hw'.2.1
      subst hk
      have hc := heq k
      simp only [Memory.read_cons, if_true] at hc
      subst hc
      congr 1
      refine ih hw.2.2 hw'.2.2 fun i => ?_
      by_cases hi : k = i
      · subst hi
        rw [Memory.read_below hw.2.2 (by omega), Memory.read_below hw'.2.2 (by omega)]
      · have := heq i
        rwa [Memory.read_cons, Memory.read_cons, if_neg hi, if_neg hi] at this

/-- Two canonical memories that read alike everywhere are the same list. -/
theorem Memory.eq_of_read {m m' : Memory} (h : Memory.wf m = true) (h' : Memory.wf m' = true)
    (heq : ∀ i, Memory.read m i = Memory.read m' i) : m = m' :=
  Memory.eq_of_read_of_wfFrom h h' heq

/-! ## Ranges and indices -/

theorem mem_span {a b v : Int} : v ∈ span a b ↔ a ≤ v ∧ v < b := by
  unfold span
  rw [List.mem_map]
  constructor
  · rintro ⟨k, hk, rfl⟩
    rw [List.mem_range] at hk
    omega
  · rintro ⟨h1, h2⟩
    exact ⟨(v - a).toNat, by rw [List.mem_range]; omega, by omega⟩

theorem inBounds_iff {W H : Nat} {x y : Int} :
    inBounds W H x y = true ↔ 0 ≤ x ∧ x < (W : Int) ∧ 0 ≤ y ∧ y < (H : Int) := by
  simp [inBounds, and_assoc]

/-- An index in bounds is one of the `W*H` pixels. -/
theorem idx_lt {W H : Nat} {x y : Int} (h : inBounds W H x y = true) : idx W x y < W * H := by
  rw [inBounds_iff] at h
  obtain ⟨h1, h2, h3, h4⟩ := h
  have : y * (W : Int) + x < (W : Int) * (H : Int) := by
    have : y * (W : Int) ≤ ((H : Int) - 1) * (W : Int) := Int.mul_le_mul_of_nonneg_right (by omega) (by omega)
    nlinarith
  unfold idx
  have hz : (0 : Int) ≤ y * (W : Int) := Int.mul_nonneg h3 (by omega)
  have : ((y * (W : Int) + x).toNat : Int) < ((W * H : Nat) : Int) := by
    rw [Int.toNat_of_nonneg (by omega)]
    push_cast
    exact this
  exact_mod_cast this

/-- No pixel shares its index with another: no index wraps into another row (20_memory.md R71). -/
theorem idx_injective {W H : Nat} {x y x' y' : Int} (h : inBounds W H x y = true) (h' : inBounds W H x' y' = true)
    (he : idx W x y = idx W x' y') : x = x' ∧ y = y' := by
  rw [inBounds_iff] at h h'
  obtain ⟨h1, h2, h3, -⟩ := h
  obtain ⟨h1', h2', h3', -⟩ := h'
  have hz : (0 : Int) ≤ y * (W : Int) := Int.mul_nonneg h3 (by omega)
  have hz' : (0 : Int) ≤ y' * (W : Int) := Int.mul_nonneg h3' (by omega)
  have hi : y * (W : Int) + x = y' * (W : Int) + x' := by
    unfold idx at he
    omega
  have hy : y = y' := by
    have e1 : (y * (W : Int) + x) / (W : Int) = y := by
      rw [Int.add_comm, Int.add_mul_ediv_right _ _ (by omega), Int.ediv_eq_zero_of_lt h1 h2]
      omega
    have e2 : (y' * (W : Int) + x') / (W : Int) = y' := by
      rw [Int.add_comm, Int.add_mul_ediv_right _ _ (by omega), Int.ediv_eq_zero_of_lt h1' h2']
      omega
    rw [← e1, ← e2, hi]
  subst hy
  exact ⟨by omega, rfl⟩

/-! ## A list of writes of one colour -/

/-- What writing one colour at a list of indices does to each pixel, and that it keeps the canonical form. -/
theorem Memory.foldl_write {m : Memory} (hm : Memory.wf m = true) (c : Color) (is : List Nat) :
    Memory.wf (is.foldl (fun m i => Memory.write m i c) m) = true ∧
      ∀ j, Memory.read (is.foldl (fun m i => Memory.write m i c) m) j = if j ∈ is then c else Memory.read m j := by
  induction is generalizing m with
  | nil => exact ⟨hm, fun j => by simp⟩
  | cons i is ih =>
    obtain ⟨h1, h2⟩ := ih (Memory.write_wf hm i c)
    refine ⟨h1, fun j => ?_⟩
    rw [List.foldl_cons, h2, Memory.read_write hm]
    by_cases hj : j ∈ is <;> by_cases hi : j = i <;> simp [hj, hi]

theorem Memory.foldl_write_within {n : Nat} {m : Memory} (hm : Memory.within n m = true) (c : Color) (is : List Nat)
    (his : ∀ i ∈ is, i < n) : Memory.within n (is.foldl (fun m i => Memory.write m i c) m) = true := by
  induction is generalizing m with
  | nil => exact hm
  | cons i is ih =>
    exact ih (Memory.write_within hm (his i (by simp)) c) fun k hk => his k (by simp [hk])

end Sys2Proof.Machine
end

