-- ==== Sys2Proof/Laws/Paint.lean ====
section
/-! SUPPORT. Every painting operation is a list of writes of one colour (20_memory.md R72): the list of each, and which
pixels are in it. With `Memory.foldl_write` this says all that an operation does to a layer. -/

namespace Sys2Proof.Machine

/-- The indices of the pixels of `Fill` (41_rectangle.md R170). -/
def fillIndices (W H : Nat) (x y w h : Int) : List Nat :=
  (span (max y 0) (min (y + h) H)).flatMap fun py => (span (max x 0) (min (x + w) W)).map fun px => idx W px py

theorem Memory.fill_eq (W H : Nat) (x y w h : Int) (c : Color) (m : Memory) :
    Memory.fill W H x y w h c m = (fillIndices W H x y w h).foldl (fun m i => Memory.write m i c) m := by
  unfold Memory.fill fillIndices
  rw [List.foldl_flatMap]
  simp only [List.foldl_map]

theorem mem_fillIndices {W H : Nat} {x y w h : Int} {j : Nat} :
    j ∈ fillIndices W H x y w h ↔ ∃ px py, inBounds W H px py = true ∧ inRect x y w h px py ∧ idx W px py = j := by
  unfold fillIndices inRect
  simp only [List.mem_flatMap, List.mem_map, mem_span, inBounds_iff]
  constructor
  · rintro ⟨py, hy, px, hx, rfl⟩
    exact ⟨px, py, by omega, by omega, rfl⟩
  · rintro ⟨px, py, hb, hr, rfl⟩
    exact ⟨py, by omega, px, by omega, rfl⟩

/-- The indices of the pixels of the four bands, band after band (41_rectangle.md R172). -/
def bandIndices (W H : Nat) (x y w h t : Int) : List Nat :=
  fillIndices W H x y w (min t h)
    ++ (if t < h then fillIndices W H x (y + h - min t h) w (min t h) else [])
    ++ fillIndices W H x (y + t) (min t w) (max (h - 2 * t) 0)
    ++ fillIndices W H (x + w - min t w) (y + t) (min t w) (max (h - 2 * t) 0)

theorem Memory.rectOutline_eq (W H : Nat) (x y w h t : Int) (c : Color) (m : Memory) :
    Memory.rectOutline W H x y w h t c m = (bandIndices W H x y w h t).foldl (fun m i => Memory.write m i c) m := by
  unfold Memory.rectOutline bandIndices
  simp only [Memory.fill_eq, List.foldl_append]
  split <;> rfl

theorem mem_bandIndices {W H : Nat} {x y w h t : Int} {j : Nat} :
    j ∈ bandIndices W H x y w h t ↔
      ∃ px py, inBounds W H px py = true ∧ inBands x y w h t px py ∧ idx W px py = j := by
  have hif : (j ∈ if t < h then fillIndices W H x (y + h - min t h) w (min t h) else []) ↔
      t < h ∧ j ∈ fillIndices W H x (y + h - min t h) w (min t h) := by
    split <;> simp [*]
  simp only [bandIndices, List.mem_append, hif, mem_fillIndices, inBands]
  constructor
  · rintro (((⟨px, py, h1, h2, h3⟩ | ⟨h0, px, py, h1, h2, h3⟩) | ⟨px, py, h1, h2, h3⟩) | ⟨px, py, h1, h2, h3⟩)
    · exact ⟨px, py, h1, .inl h2, h3⟩
    · exact ⟨px, py, h1, .inr (.inl ⟨h0, h2⟩), h3⟩
    · exact ⟨px, py, h1, .inr (.inr (.inl h2)), h3⟩
    · exact ⟨px, py, h1, .inr (.inr (.inr h2)), h3⟩
  · rintro ⟨px, py, h1, h2 | ⟨h0, h2⟩ | h2 | h2, h3⟩
    · exact .inl (.inl (.inl ⟨px, py, h1, h2, h3⟩))
    · exact .inl (.inl (.inr ⟨h0, px, py, h1, h2, h3⟩))
    · exact .inl (.inr ⟨px, py, h1, h2, h3⟩)
    · exact .inr ⟨px, py, h1, h2, h3⟩

/-- A band pixel lies in the rectangle, and there is none for a zero size or thickness. -/
theorem inBands_inRect {x y w h t px py : Int} (ht : 0 ≤ t) (hb : inBands x y w h t px py) :
    inRect x y w h px py ∧ 1 ≤ w ∧ 1 ≤ h ∧ 1 ≤ t := by
  unfold inBands inRect at *
  omega

/-- The indices of the pixels of `DrawRect`: the band pixels, whichever return R177 takes. -/
theorem Memory.drawRect_eq (W H : Nat) (x y : Int) (w h t : Nat) (c : Color) (m : Memory) :
    Memory.drawRect W H x y w h t c m =
      (bandIndices W H x y w h t).foldl (fun m i => Memory.write m i c) m := by
  have hnil (hno : ∀ px py, inBounds W H px py = true → ¬ inBands x y w h t px py) : bandIndices W H x y w h t = [] := by
    refine List.eq_nil_iff_forall_not_mem.mpr fun j hj => ?_
    obtain ⟨px, py, h1, h2, -⟩ := mem_bandIndices.mp hj
    exact hno px py h1 h2
  unfold Memory.drawRect
  split
  · rw [hnil]
    · rfl
    · intro px py _ hb
      have := inBands_inRect (by omega) hb
      omega
  · split
    · rw [hnil]
      · rfl
      · intro px py hin hb
        have := (inBands_inRect (by omega) hb).1
        rw [inBounds_iff] at hin
        unfold inRect at this
        omega
    · exact Memory.rectOutline_eq ..

/-- The indices of the pixels of one stroked line (42_line_triangle.md R202). -/
def strokeIndices (W H : Nat) (mode : SquareHalf) (p q : Point) (s : Nat) : List Nat :=
  (linePoints p q).flatMap fun k => fillIndices W H (k.x - squareHalf mode s) (k.y - squareHalf mode s) s s

/-- The offset of a square of a side that is not 0 (00_scope.md R6). -/
theorem squareHalf_cast (mode : SquareHalf) {t : Nat} (ht : t ≠ 0) :
    ((squareHalf mode t : Nat) : Int) = if mode = .upperLeft then (t : Int) / 2 else ((t : Int) - 1) / 2 := by
  cases mode with
  | upperLeft => simp [squareHalf]
  | lowerRight => simp only [squareHalf, reduceCtorEq, if_false]; omega

theorem Memory.strokeLine_eq (W H : Nat) (mode : SquareHalf) (p q : Point) (s : Nat) (c : Color) (m : Memory) :
    Memory.strokeLine W H mode p q s c m = (strokeIndices W H mode p q s).foldl (fun m i => Memory.write m i c) m := by
  unfold Memory.strokeLine strokeIndices
  rw [List.foldl_flatMap]
  simp only [Memory.fill_eq]

theorem mem_strokeIndices {W H : Nat} {mode : SquareHalf} {p q : Point} {s j : Nat} :
    j ∈ strokeIndices W H mode p q s ↔
      ∃ px py, inBounds W H px py = true ∧
        (∃ k ∈ linePoints p q, inRect (k.x - squareHalf mode s) (k.y - squareHalf mode s) s s px py) ∧
        idx W px py = j := by
  unfold strokeIndices
  simp only [List.mem_flatMap, mem_fillIndices]
  constructor
  · rintro ⟨k, hk, px, py, h1, h2, h3⟩
    exact ⟨px, py, h1, ⟨k, hk, h2⟩, h3⟩
  · rintro ⟨px, py, h1, ⟨k, hk, h2⟩, h3⟩
    exact ⟨k, hk, px, py, h1, h2, h3⟩

/-- The indices of the pixels of `DrawTri` (42_line_triangle.md R203): none for its two no-ops, else the three edges
in order. -/
def triIndices (W H : Nat) (mode : SquareHalf) (a b c : Point) (t : Nat) : List Nat :=
  if t = 0 ∨ (a = b ∧ b = c) then []
  else strokeIndices W H mode a b t ++ strokeIndices W H mode b c t ++ strokeIndices W H mode c a t

theorem Memory.drawTri_eq (W H : Nat) (mode : SquareHalf) (a b c : Point) (t : Nat) (col : Color) (m : Memory) :
    Memory.drawTri W H mode a b c t col m =
      (triIndices W H mode a b c t).foldl (fun m i => Memory.write m i col) m := by
  unfold Memory.drawTri triIndices
  by_cases h0 : t = 0
  · simp [h0]
  · by_cases he : a = b ∧ b = c
    · simp [h0, he]
    · rw [if_neg h0, if_neg he, if_neg (by tauto)]
      simp only [Memory.strokeLine_eq, List.foldl_append, show max t 1 = t by omega]

theorem mem_triIndices {W H : Nat} {mode : SquareHalf} {a b c : Point} {t j : Nat} :
    j ∈ triIndices W H mode a b c t ↔
      ∃ px py, inBounds W H px py = true ∧
        (t ≠ 0 ∧ ¬ (a = b ∧ b = c) ∧ inStroke (squareHalf mode t) a b c t px py) ∧ idx W px py = j := by
  unfold triIndices inStroke
  split
  · next h =>
    simp only [List.not_mem_nil, false_iff, not_exists, not_and]
    rintro px py - ⟨h1, h2, -⟩
    tauto
  · next h =>
    have h1 : t ≠ 0 := fun h0 => h (.inl h0)
    have h2 : ¬ (a = b ∧ b = c) := fun h0 => h (.inr h0)
    simp only [List.mem_append, mem_strokeIndices]
    constructor
    · rintro ((⟨px, py, hb, ⟨k, hk, hr⟩, hj⟩ | ⟨px, py, hb, ⟨k, hk, hr⟩, hj⟩) | ⟨px, py, hb, ⟨k, hk, hr⟩, hj⟩)
      · exact ⟨px, py, hb, ⟨h1, h2, k, .inl (.inl hk), hr⟩, hj⟩
      · exact ⟨px, py, hb, ⟨h1, h2, k, .inl (.inr hk), hr⟩, hj⟩
      · exact ⟨px, py, hb, ⟨h1, h2, k, .inr hk, hr⟩, hj⟩
    · rintro ⟨px, py, hb, ⟨-, -, k, (hk | hk) | hk, hr⟩, hj⟩
      · exact .inl (.inl ⟨px, py, hb, ⟨k, hk, hr⟩, hj⟩)
      · exact .inl (.inr ⟨px, py, hb, ⟨k, hk, hr⟩, hj⟩)
      · exact .inr ⟨px, py, hb, ⟨k, hk, hr⟩, hj⟩

end Sys2Proof.Machine
end

