-- ==== Sys2Proof/Laws/State.lean ====
section
/-! SUPPORT. The fields of a state after each update: one lemma per field per update, so that no proof unfolds an
update to read a field. -/

namespace Sys2Proof.Machine

/-! ## setErr -/

@[simp] theorem State.setErr_cfg (e : ErrCode) (s : State) : (s.setErr e).cfg = s.cfg := rfl
@[simp] theorem State.setErr_eng (e : ErrCode) (s : State) : (s.setErr e).eng = s.eng := rfl
@[simp] theorem State.setErr_ready (e : ErrCode) (s : State) : (s.setErr e).ready = s.ready := rfl
@[simp] theorem State.setErr_ovr (e : ErrCode) (s : State) : (s.setErr e).ovr = s.ovr := rfl
@[simp] theorem State.setErr_err (e : ErrCode) (s : State) : (s.setErr e).err = e.bits := rfl
@[simp] theorem State.setErr_width (e : ErrCode) (s : State) : (s.setErr e).width = s.width := rfl
@[simp] theorem State.setErr_height (e : ErrCode) (s : State) : (s.setErr e).height = s.height := rfl
@[simp] theorem State.setErr_orient (e : ErrCode) (s : State) : (s.setErr e).orient = s.orient := rfl
@[simp] theorem State.setErr_pixfmt (e : ErrCode) (s : State) : (s.setErr e).pixfmt = s.pixfmt := rfl
@[simp] theorem State.setErr_arg0 (e : ErrCode) (s : State) : (s.setErr e).arg0 = s.arg0 := rfl
@[simp] theorem State.setErr_arg1 (e : ErrCode) (s : State) : (s.setErr e).arg1 = s.arg1 := rfl
@[simp] theorem State.setErr_arg2 (e : ErrCode) (s : State) : (s.setErr e).arg2 = s.arg2 := rfl
@[simp] theorem State.setErr_arg3 (e : ErrCode) (s : State) : (s.setErr e).arg3 = s.arg3 := rfl
@[simp] theorem State.setErr_resColor (e : ErrCode) (s : State) : (s.setErr e).resColor = s.resColor := rfl
@[simp] theorem State.setErr_resValid (e : ErrCode) (s : State) : (s.setErr e).resValid = s.resValid := rfl
@[simp] theorem State.setErr_fb1 (e : ErrCode) (s : State) : (s.setErr e).fb1 = s.fb1 := rfl
@[simp] theorem State.setErr_fb2 (e : ErrCode) (s : State) : (s.setErr e).fb2 = s.fb2 := rfl
@[simp] theorem State.setErr_inputs (e : ErrCode) (s : State) : (s.setErr e).inputs = s.inputs := rfl
@[simp] theorem State.setErr_sched (e : ErrCode) (s : State) : (s.setErr e).sched = s.sched := rfl
@[simp] theorem State.setErr_draws (e : ErrCode) (s : State) : (s.setErr e).draws = s.draws := rfl
@[simp] theorem State.setErr_reads (e : ErrCode) (s : State) : (s.setErr e).reads = s.reads := rfl
@[simp] theorem State.setErr_unconfirmed (e : ErrCode) (s : State) : (s.setErr e).unconfirmed = s.unconfirmed := rfl

/-! ## setOvr -/

@[simp] theorem State.setOvr_cfg (s : State) : (s.setOvr).cfg = s.cfg := rfl
@[simp] theorem State.setOvr_eng (s : State) : (s.setOvr).eng = s.eng := rfl
@[simp] theorem State.setOvr_ready (s : State) : (s.setOvr).ready = s.ready := rfl
@[simp] theorem State.setOvr_ovr (s : State) : (s.setOvr).ovr = true := rfl
@[simp] theorem State.setOvr_err (s : State) : (s.setOvr).err = s.err := rfl
@[simp] theorem State.setOvr_width (s : State) : (s.setOvr).width = s.width := rfl
@[simp] theorem State.setOvr_height (s : State) : (s.setOvr).height = s.height := rfl
@[simp] theorem State.setOvr_orient (s : State) : (s.setOvr).orient = s.orient := rfl
@[simp] theorem State.setOvr_pixfmt (s : State) : (s.setOvr).pixfmt = s.pixfmt := rfl
@[simp] theorem State.setOvr_arg0 (s : State) : (s.setOvr).arg0 = s.arg0 := rfl
@[simp] theorem State.setOvr_arg1 (s : State) : (s.setOvr).arg1 = s.arg1 := rfl
@[simp] theorem State.setOvr_arg2 (s : State) : (s.setOvr).arg2 = s.arg2 := rfl
@[simp] theorem State.setOvr_arg3 (s : State) : (s.setOvr).arg3 = s.arg3 := rfl
@[simp] theorem State.setOvr_resColor (s : State) : (s.setOvr).resColor = s.resColor := rfl
@[simp] theorem State.setOvr_resValid (s : State) : (s.setOvr).resValid = s.resValid := rfl
@[simp] theorem State.setOvr_fb1 (s : State) : (s.setOvr).fb1 = s.fb1 := rfl
@[simp] theorem State.setOvr_fb2 (s : State) : (s.setOvr).fb2 = s.fb2 := rfl
@[simp] theorem State.setOvr_inputs (s : State) : (s.setOvr).inputs = s.inputs := rfl
@[simp] theorem State.setOvr_sched (s : State) : (s.setOvr).sched = s.sched := rfl
@[simp] theorem State.setOvr_draws (s : State) : (s.setOvr).draws = s.draws := rfl
@[simp] theorem State.setOvr_reads (s : State) : (s.setOvr).reads = s.reads := rfl
@[simp] theorem State.setOvr_unconfirmed (s : State) : (s.setOvr).unconfirmed = s.unconfirmed := rfl

/-! ## setFb -/

@[simp] theorem State.setFb_cfg (L : Layer) (m : Memory) (s : State) : (s.setFb L m).cfg = s.cfg := by cases L <;> rfl
@[simp] theorem State.setFb_eng (L : Layer) (m : Memory) (s : State) : (s.setFb L m).eng = s.eng := by cases L <;> rfl
@[simp] theorem State.setFb_ready (L : Layer) (m : Memory) (s : State) :
    (s.setFb L m).ready = s.ready := by cases L <;> rfl
@[simp] theorem State.setFb_ovr (L : Layer) (m : Memory) (s : State) : (s.setFb L m).ovr = s.ovr := by cases L <;> rfl
@[simp] theorem State.setFb_err (L : Layer) (m : Memory) (s : State) : (s.setFb L m).err = s.err := by cases L <;> rfl
@[simp] theorem State.setFb_width (L : Layer) (m : Memory) (s : State) :
    (s.setFb L m).width = s.width := by cases L <;> rfl
@[simp] theorem State.setFb_height (L : Layer) (m : Memory) (s : State) :
    (s.setFb L m).height = s.height := by cases L <;> rfl
@[simp] theorem State.setFb_orient (L : Layer) (m : Memory) (s : State) :
    (s.setFb L m).orient = s.orient := by cases L <;> rfl
@[simp] theorem State.setFb_pixfmt (L : Layer) (m : Memory) (s : State) :
    (s.setFb L m).pixfmt = s.pixfmt := by cases L <;> rfl
@[simp] theorem State.setFb_arg0 (L : Layer) (m : Memory) (s : State) :
    (s.setFb L m).arg0 = s.arg0 := by cases L <;> rfl
@[simp] theorem State.setFb_arg1 (L : Layer) (m : Memory) (s : State) :
    (s.setFb L m).arg1 = s.arg1 := by cases L <;> rfl
@[simp] theorem State.setFb_arg2 (L : Layer) (m : Memory) (s : State) :
    (s.setFb L m).arg2 = s.arg2 := by cases L <;> rfl
@[simp] theorem State.setFb_arg3 (L : Layer) (m : Memory) (s : State) :
    (s.setFb L m).arg3 = s.arg3 := by cases L <;> rfl
@[simp] theorem State.setFb_resColor (L : Layer) (m : Memory) (s : State) :
    (s.setFb L m).resColor = s.resColor := by cases L <;> rfl
@[simp] theorem State.setFb_resValid (L : Layer) (m : Memory) (s : State) :
    (s.setFb L m).resValid = s.resValid := by cases L <;> rfl
@[simp] theorem State.setFb_inputs (L : Layer) (m : Memory) (s : State) :
    (s.setFb L m).inputs = s.inputs := by cases L <;> rfl
@[simp] theorem State.setFb_sched (L : Layer) (m : Memory) (s : State) :
    (s.setFb L m).sched = s.sched := by cases L <;> rfl
@[simp] theorem State.setFb_draws (L : Layer) (m : Memory) (s : State) :
    (s.setFb L m).draws = s.draws := by cases L <;> rfl
@[simp] theorem State.setFb_reads (L : Layer) (m : Memory) (s : State) :
    (s.setFb L m).reads = s.reads := by cases L <;> rfl
@[simp] theorem State.setFb_unconfirmed (L : Layer) (m : Memory) (s : State) :
    (s.setFb L m).unconfirmed = s.unconfirmed := by cases L <;> rfl

@[simp] theorem State.setFb_fb_same (L : Layer) (m : Memory) (s : State) :
    (s.setFb L m).fb L = m := by cases L <;> rfl
@[simp] theorem State.setFb_fb_other (L : Layer) (m : Memory) (s : State) :
    (s.setFb L m).fb (otherLayer L) = s.fb (otherLayer L) := by cases L <;> rfl
theorem State.setFb_fb (L M : Layer) (m : Memory) (s : State) : (s.setFb L m).fb M = if M = L then m else s.fb M := by
  cases L <;> cases M <;> rfl
@[simp] theorem State.setFb_self (L : Layer) (s : State) : s.setFb L (s.fb L) = s := by cases L <;> rfl
@[simp] theorem State.setFb_W (L : Layer) (m : Memory) (s : State) : (s.setFb L m).W = s.W := by cases L <;> rfl
@[simp] theorem State.setFb_H (L : Layer) (m : Memory) (s : State) : (s.setFb L m).H = s.H := by cases L <;> rfl
@[simp] theorem State.setErr_fb (e : ErrCode) (s : State) (L : Layer) :
    (s.setErr e).fb L = s.fb L := by cases L <;> rfl
@[simp] theorem State.setErr_W (e : ErrCode) (s : State) : (s.setErr e).W = s.W := rfl
@[simp] theorem State.setErr_H (e : ErrCode) (s : State) : (s.setErr e).H = s.H := rfl

/-! ## setResult -/

@[simp] theorem State.setResult_cfg (r : Option Color) (s : State) : (s.setResult r).cfg = s.cfg := by cases r <;> rfl
@[simp] theorem State.setResult_eng (r : Option Color) (s : State) : (s.setResult r).eng = s.eng := by cases r <;> rfl
@[simp] theorem State.setResult_ready (r : Option Color) (s : State) :
    (s.setResult r).ready = s.ready := by cases r <;> rfl
@[simp] theorem State.setResult_ovr (r : Option Color) (s : State) : (s.setResult r).ovr = s.ovr := by cases r <;> rfl
@[simp] theorem State.setResult_err (r : Option Color) (s : State) : (s.setResult r).err = s.err := by cases r <;> rfl
@[simp] theorem State.setResult_width (r : Option Color) (s : State) :
    (s.setResult r).width = s.width := by cases r <;> rfl
@[simp] theorem State.setResult_height (r : Option Color) (s : State) :
    (s.setResult r).height = s.height := by cases r <;> rfl
@[simp] theorem State.setResult_orient (r : Option Color) (s : State) :
    (s.setResult r).orient = s.orient := by cases r <;> rfl
@[simp] theorem State.setResult_pixfmt (r : Option Color) (s : State) :
    (s.setResult r).pixfmt = s.pixfmt := by cases r <;> rfl
@[simp] theorem State.setResult_arg0 (r : Option Color) (s : State) :
    (s.setResult r).arg0 = s.arg0 := by cases r <;> rfl
@[simp] theorem State.setResult_arg1 (r : Option Color) (s : State) :
    (s.setResult r).arg1 = s.arg1 := by cases r <;> rfl
@[simp] theorem State.setResult_arg2 (r : Option Color) (s : State) :
    (s.setResult r).arg2 = s.arg2 := by cases r <;> rfl
@[simp] theorem State.setResult_arg3 (r : Option Color) (s : State) :
    (s.setResult r).arg3 = s.arg3 := by cases r <;> rfl
@[simp] theorem State.setResult_fb1 (r : Option Color) (s : State) : (s.setResult r).fb1 = s.fb1 := by cases r <;> rfl
@[simp] theorem State.setResult_fb2 (r : Option Color) (s : State) : (s.setResult r).fb2 = s.fb2 := by cases r <;> rfl
@[simp] theorem State.setResult_inputs (r : Option Color) (s : State) :
    (s.setResult r).inputs = s.inputs := by cases r <;> rfl
@[simp] theorem State.setResult_sched (r : Option Color) (s : State) :
    (s.setResult r).sched = s.sched := by cases r <;> rfl
@[simp] theorem State.setResult_draws (r : Option Color) (s : State) :
    (s.setResult r).draws = s.draws := by cases r <;> rfl
@[simp] theorem State.setResult_reads (r : Option Color) (s : State) :
    (s.setResult r).reads = s.reads := by cases r <;> rfl
@[simp] theorem State.setResult_unconfirmed (r : Option Color) (s : State) :
    (s.setResult r).unconfirmed = s.unconfirmed := by cases r <;> rfl

@[simp] theorem State.setResult_some_resColor (c : Color) (s : State) : (s.setResult (some c)).resColor = c := rfl
@[simp] theorem State.setResult_some_resValid (c : Color) (s : State) : (s.setResult (some c)).resValid = true := rfl
@[simp] theorem State.setResult_none_resColor (s : State) : (s.setResult none).resColor = 0#16 := rfl
@[simp] theorem State.setResult_none_resValid (s : State) : (s.setResult none).resValid = false := rfl
@[simp] theorem State.setResult_fb (r : Option Color) (s : State) (L : Layer) : (s.setResult r).fb L = s.fb L := by
  cases r <;> cases L <;> rfl

/-! ## deviceReset -/

@[simp] theorem State.deviceReset_cfg (s : State) : (s.deviceReset).cfg = s.cfg := rfl
@[simp] theorem State.deviceReset_eng (s : State) : (s.deviceReset).eng = State.reset.eng := rfl
@[simp] theorem State.deviceReset_ready (s : State) : (s.deviceReset).ready = State.reset.ready := rfl
@[simp] theorem State.deviceReset_ovr (s : State) : (s.deviceReset).ovr = State.reset.ovr := rfl
@[simp] theorem State.deviceReset_err (s : State) : (s.deviceReset).err = State.reset.err := rfl
@[simp] theorem State.deviceReset_width (s : State) : (s.deviceReset).width = State.reset.width := rfl
@[simp] theorem State.deviceReset_height (s : State) : (s.deviceReset).height = State.reset.height := rfl
@[simp] theorem State.deviceReset_orient (s : State) : (s.deviceReset).orient = State.reset.orient := rfl
@[simp] theorem State.deviceReset_pixfmt (s : State) : (s.deviceReset).pixfmt = State.reset.pixfmt := rfl
@[simp] theorem State.deviceReset_arg0 (s : State) : (s.deviceReset).arg0 = State.reset.arg0 := rfl
@[simp] theorem State.deviceReset_arg1 (s : State) : (s.deviceReset).arg1 = State.reset.arg1 := rfl
@[simp] theorem State.deviceReset_arg2 (s : State) : (s.deviceReset).arg2 = State.reset.arg2 := rfl
@[simp] theorem State.deviceReset_arg3 (s : State) : (s.deviceReset).arg3 = State.reset.arg3 := rfl
@[simp] theorem State.deviceReset_resColor (s : State) : (s.deviceReset).resColor = State.reset.resColor := rfl
@[simp] theorem State.deviceReset_resValid (s : State) : (s.deviceReset).resValid = State.reset.resValid := rfl
@[simp] theorem State.deviceReset_fb1 (s : State) : (s.deviceReset).fb1 = State.reset.fb1 := rfl
@[simp] theorem State.deviceReset_fb2 (s : State) : (s.deviceReset).fb2 = State.reset.fb2 := rfl
@[simp] theorem State.deviceReset_inputs (s : State) : (s.deviceReset).inputs = s.inputs := rfl
@[simp] theorem State.deviceReset_sched (s : State) : (s.deviceReset).sched = s.sched := rfl
@[simp] theorem State.deviceReset_draws (s : State) : (s.deviceReset).draws = s.draws := rfl
@[simp] theorem State.deviceReset_reads (s : State) : (s.deviceReset).reads = s.reads := rfl
@[simp] theorem State.deviceReset_unconfirmed (s : State) : (s.deviceReset).unconfirmed = s.unconfirmed := rfl

/-! ## hostRead -/

@[simp] theorem State.hostRead_cfg (s : State) (off : Nat) : (s.hostRead off).cfg = s.cfg := rfl
@[simp] theorem State.hostRead_eng (s : State) (off : Nat) : (s.hostRead off).eng = s.eng := rfl
@[simp] theorem State.hostRead_ready (s : State) (off : Nat) : (s.hostRead off).ready = s.ready := rfl
@[simp] theorem State.hostRead_ovr (s : State) (off : Nat) : (s.hostRead off).ovr = s.ovr := rfl
@[simp] theorem State.hostRead_err (s : State) (off : Nat) : (s.hostRead off).err = s.err := rfl
@[simp] theorem State.hostRead_width (s : State) (off : Nat) : (s.hostRead off).width = s.width := rfl
@[simp] theorem State.hostRead_height (s : State) (off : Nat) : (s.hostRead off).height = s.height := rfl
@[simp] theorem State.hostRead_orient (s : State) (off : Nat) : (s.hostRead off).orient = s.orient := rfl
@[simp] theorem State.hostRead_pixfmt (s : State) (off : Nat) : (s.hostRead off).pixfmt = s.pixfmt := rfl
@[simp] theorem State.hostRead_arg0 (s : State) (off : Nat) : (s.hostRead off).arg0 = s.arg0 := rfl
@[simp] theorem State.hostRead_arg1 (s : State) (off : Nat) : (s.hostRead off).arg1 = s.arg1 := rfl
@[simp] theorem State.hostRead_arg2 (s : State) (off : Nat) : (s.hostRead off).arg2 = s.arg2 := rfl
@[simp] theorem State.hostRead_arg3 (s : State) (off : Nat) : (s.hostRead off).arg3 = s.arg3 := rfl
@[simp] theorem State.hostRead_resColor (s : State) (off : Nat) : (s.hostRead off).resColor = s.resColor := rfl
@[simp] theorem State.hostRead_resValid (s : State) (off : Nat) : (s.hostRead off).resValid = s.resValid := rfl
@[simp] theorem State.hostRead_fb1 (s : State) (off : Nat) : (s.hostRead off).fb1 = s.fb1 := rfl
@[simp] theorem State.hostRead_fb2 (s : State) (off : Nat) : (s.hostRead off).fb2 = s.fb2 := rfl
@[simp] theorem State.hostRead_inputs (s : State) (off : Nat) : (s.hostRead off).inputs = s.inputs := rfl
@[simp] theorem State.hostRead_sched (s : State) (off : Nat) : (s.hostRead off).sched = s.sched := rfl
@[simp] theorem State.hostRead_reads (s : State) (off : Nat) :
    (s.hostRead off).reads = ⟨off, s.readReg (regAt off) (Config.draw s.draws)⟩ :: s.reads := rfl

@[simp] theorem State.hostRead_unconfirmed (s : State) (off : Nat) :
    (s.hostRead off).unconfirmed = (s.unconfirmed && (s.busy || decide (regAt off ≠ .status))) := rfl

/-! ## issue -/

@[simp] theorem State.issue_unconfirmed (v : Word) (s : State) : (s.issue v).unconfirmed = true := by
  unfold State.issue
  split <;> rfl

/-! ## holding -/

@[simp] theorem State.holding_cfg (q : Latch) (s : State) : (s.holding q).cfg = s.cfg := rfl
@[simp] theorem State.holding_eng (q : Latch) (s : State) : (s.holding q).eng = .busy q := rfl
@[simp] theorem State.holding_ready (q : Latch) (s : State) : (s.holding q).ready = s.ready := rfl
@[simp] theorem State.holding_ovr (q : Latch) (s : State) : (s.holding q).ovr = s.ovr := rfl
@[simp] theorem State.holding_err (q : Latch) (s : State) : (s.holding q).err = s.err := rfl
@[simp] theorem State.holding_width (q : Latch) (s : State) : (s.holding q).width = s.width := rfl
@[simp] theorem State.holding_height (q : Latch) (s : State) : (s.holding q).height = s.height := rfl
@[simp] theorem State.holding_orient (q : Latch) (s : State) : (s.holding q).orient = s.orient := rfl
@[simp] theorem State.holding_pixfmt (q : Latch) (s : State) : (s.holding q).pixfmt = s.pixfmt := rfl
@[simp] theorem State.holding_arg0 (q : Latch) (s : State) : (s.holding q).arg0 = s.arg0 := rfl
@[simp] theorem State.holding_arg1 (q : Latch) (s : State) : (s.holding q).arg1 = s.arg1 := rfl
@[simp] theorem State.holding_arg2 (q : Latch) (s : State) : (s.holding q).arg2 = s.arg2 := rfl
@[simp] theorem State.holding_arg3 (q : Latch) (s : State) : (s.holding q).arg3 = s.arg3 := rfl
@[simp] theorem State.holding_resColor (q : Latch) (s : State) : (s.holding q).resColor = s.resColor := rfl
@[simp] theorem State.holding_resValid (q : Latch) (s : State) : (s.holding q).resValid = s.resValid := rfl
@[simp] theorem State.holding_fb1 (q : Latch) (s : State) : (s.holding q).fb1 = s.fb1 := rfl
@[simp] theorem State.holding_fb2 (q : Latch) (s : State) : (s.holding q).fb2 = s.fb2 := rfl
@[simp] theorem State.holding_inputs (q : Latch) (s : State) : (s.holding q).inputs = s.inputs := rfl
@[simp] theorem State.holding_sched (q : Latch) (s : State) : (s.holding q).sched = [] := rfl
@[simp] theorem State.holding_draws (q : Latch) (s : State) : (s.holding q).draws = s.draws := rfl
@[simp] theorem State.holding_reads (q : Latch) (s : State) : (s.holding q).reads = s.reads := rfl
@[simp] theorem State.holding_unconfirmed (q : Latch) (s : State) : (s.holding q).unconfirmed = true := rfl

/-! ## construct -/

@[simp] theorem State.construct_cfg (w h : Nat) (o : Orientation) (s : State) : (s.construct w h o).cfg = s.cfg := rfl
@[simp] theorem State.construct_eng (w h : Nat) (o : Orientation) (s : State) : (s.construct w h o).eng = s.eng := rfl
@[simp] theorem State.construct_ready (w h : Nat) (o : Orientation) (s : State) :
    (s.construct w h o).ready = true := rfl
@[simp] theorem State.construct_ovr (w h : Nat) (o : Orientation) (s : State) : (s.construct w h o).ovr = s.ovr := rfl
@[simp] theorem State.construct_err (w h : Nat) (o : Orientation) (s : State) : (s.construct w h o).err = s.err := rfl
@[simp] theorem State.construct_width (w h : Nat) (o : Orientation) (s : State) :
    (s.construct w h o).width = BitVec.ofNat 16 w := rfl
@[simp] theorem State.construct_height (w h : Nat) (o : Orientation) (s : State) :
    (s.construct w h o).height = BitVec.ofNat 16 h := rfl
@[simp] theorem State.construct_orient (w h : Nat) (o : Orientation) (s : State) :
    (s.construct w h o).orient = o := rfl
@[simp] theorem State.construct_pixfmt (w h : Nat) (o : Orientation) (s : State) :
    (s.construct w h o).pixfmt = 0#4 := rfl
@[simp] theorem State.construct_arg0 (w h : Nat) (o : Orientation) (s : State) :
    (s.construct w h o).arg0 = s.arg0 := rfl
@[simp] theorem State.construct_arg1 (w h : Nat) (o : Orientation) (s : State) :
    (s.construct w h o).arg1 = s.arg1 := rfl
@[simp] theorem State.construct_arg2 (w h : Nat) (o : Orientation) (s : State) :
    (s.construct w h o).arg2 = s.arg2 := rfl
@[simp] theorem State.construct_arg3 (w h : Nat) (o : Orientation) (s : State) :
    (s.construct w h o).arg3 = s.arg3 := rfl
@[simp] theorem State.construct_resColor (w h : Nat) (o : Orientation) (s : State) :
    (s.construct w h o).resColor = s.resColor := rfl
@[simp] theorem State.construct_resValid (w h : Nat) (o : Orientation) (s : State) :
    (s.construct w h o).resValid = s.resValid := rfl
@[simp] theorem State.construct_fb1 (w h : Nat) (o : Orientation) (s : State) : (s.construct w h o).fb1 = [] := rfl
@[simp] theorem State.construct_fb2 (w h : Nat) (o : Orientation) (s : State) : (s.construct w h o).fb2 = [] := rfl
@[simp] theorem State.construct_inputs (w h : Nat) (o : Orientation) (s : State) :
    (s.construct w h o).inputs = s.inputs := rfl
@[simp] theorem State.construct_sched (w h : Nat) (o : Orientation) (s : State) :
    (s.construct w h o).sched = s.sched := rfl
@[simp] theorem State.construct_draws (w h : Nat) (o : Orientation) (s : State) :
    (s.construct w h o).draws = s.draws := rfl
@[simp] theorem State.construct_reads (w h : Nat) (o : Orientation) (s : State) :
    (s.construct w h o).reads = s.reads := rfl
@[simp] theorem State.construct_unconfirmed (w h : Nat) (o : Orientation) (s : State) :
    (s.construct w h o).unconfirmed = s.unconfirmed := rfl

/-! ## The schedule -/

theorem State.spendTurn_eq (s : State) : s.spendTurn = { s with sched := s.spendTurn.sched } := by
  unfold State.spendTurn
  split <;> rfl

@[simp] theorem State.spendTurn_cfg (s : State) : s.spendTurn.cfg = s.cfg := by rw [State.spendTurn_eq]
@[simp] theorem State.spendTurn_eng (s : State) : s.spendTurn.eng = s.eng := by rw [State.spendTurn_eq]
@[simp] theorem State.spendTurn_ready (s : State) : s.spendTurn.ready = s.ready := by rw [State.spendTurn_eq]
@[simp] theorem State.spendTurn_ovr (s : State) : s.spendTurn.ovr = s.ovr := by rw [State.spendTurn_eq]
@[simp] theorem State.spendTurn_err (s : State) : s.spendTurn.err = s.err := by rw [State.spendTurn_eq]
@[simp] theorem State.spendTurn_width (s : State) : s.spendTurn.width = s.width := by rw [State.spendTurn_eq]
@[simp] theorem State.spendTurn_height (s : State) : s.spendTurn.height = s.height := by rw [State.spendTurn_eq]
@[simp] theorem State.spendTurn_orient (s : State) : s.spendTurn.orient = s.orient := by rw [State.spendTurn_eq]
@[simp] theorem State.spendTurn_pixfmt (s : State) : s.spendTurn.pixfmt = s.pixfmt := by rw [State.spendTurn_eq]
@[simp] theorem State.spendTurn_arg0 (s : State) : s.spendTurn.arg0 = s.arg0 := by rw [State.spendTurn_eq]
@[simp] theorem State.spendTurn_arg1 (s : State) : s.spendTurn.arg1 = s.arg1 := by rw [State.spendTurn_eq]
@[simp] theorem State.spendTurn_arg2 (s : State) : s.spendTurn.arg2 = s.arg2 := by rw [State.spendTurn_eq]
@[simp] theorem State.spendTurn_arg3 (s : State) : s.spendTurn.arg3 = s.arg3 := by rw [State.spendTurn_eq]
@[simp] theorem State.spendTurn_resColor (s : State) : s.spendTurn.resColor = s.resColor := by rw [State.spendTurn_eq]
@[simp] theorem State.spendTurn_resValid (s : State) : s.spendTurn.resValid = s.resValid := by rw [State.spendTurn_eq]
@[simp] theorem State.spendTurn_fb1 (s : State) : s.spendTurn.fb1 = s.fb1 := by rw [State.spendTurn_eq]
@[simp] theorem State.spendTurn_fb2 (s : State) : s.spendTurn.fb2 = s.fb2 := by rw [State.spendTurn_eq]
@[simp] theorem State.spendTurn_inputs (s : State) : s.spendTurn.inputs = s.inputs := by rw [State.spendTurn_eq]
@[simp] theorem State.spendTurn_draws (s : State) : s.spendTurn.draws = s.draws := by rw [State.spendTurn_eq]
@[simp] theorem State.spendTurn_reads (s : State) : s.spendTurn.reads = s.reads := by rw [State.spendTurn_eq]
@[simp] theorem State.spendTurn_unconfirmed (s : State) :
    s.spendTurn.unconfirmed = s.unconfirmed := by rw [State.spendTurn_eq]

end Sys2Proof.Machine
end

