-- ==== Sys2Proof/Laws/Ops.lean ====
section
/-! SUPPORT. What each shared operation can do, said once: the commands' frame, the bus access, the engine's and the
host's turns. -/

namespace Sys2Proof.Machine

/-! ## Completing a command -/

theorem whenReady_ready {s : State} (h : s.ready = true) (f : State → State) :
    whenReady s f = .next ((f s).setErr .ok) := by
  rw [whenReady, if_pos h, succeed]

theorem whenReady_notReady {s : State} (h : s.ready = false) (f : State → State) :
    whenReady s f = .next (s.setErr .notInitialized) := by
  rw [whenReady, if_neg (by simp [h]), raise]

/-- All that `whenReady` can answer. -/
theorem whenReady_cases {s t : State} {f : State → State} (h : whenReady s f = .next t) :
    (s.ready = true ∧ t = (f s).setErr .ok) ∨ (s.ready = false ∧ t = s.setErr .notInitialized) := by
  cases hr : s.ready with
  | true => rw [whenReady_ready hr] at h; cases h; exact .inl ⟨rfl, rfl⟩
  | false => rw [whenReady_notReady hr] at h; cases h; exact .inr ⟨rfl, rfl⟩

/-- All that a GET can answer. -/
theorem readPixel_cases {L : Layer} {x y : Nat} {s t : State} (h : readPixel L x y s = .next t) :
    (s.ready = true ∧ t = (s.setResult (s.pixel L x y)).setErr .ok) ∨
      (s.ready = false ∧ t = (s.setResult none).setErr .notInitialized) := by
  unfold readPixel succeed raise at h
  cases hr : s.ready <;> simp only [hr, if_true, Bool.false_eq_true, if_false, Host.Outcome.next.injEq] at h
  · exact .inr ⟨rfl, h.symm⟩
  · exact .inl ⟨rfl, h.symm⟩

/-- All that INIT can answer, in the order of its checks (40_display.md R134). -/
theorem execInit_cases {w h f : Nat} {o : Orientation} {s t : State} (ht : execInit w h o f s = .next t) :
    ((w = 0 ∨ h = 0) ∧ t = s.setErr .invalidDimensions) ∨
      (w ≠ 0 ∧ h ≠ 0 ∧ f ≠ 0 ∧ t = s.setErr .unsupportedPixelFormat) ∨
      (w ≠ 0 ∧ h ≠ 0 ∧ f = 0 ∧ s.cfg.maxPixels < w * h ∧ t = s.setErr .capacityExceeded) ∨
      (w ≠ 0 ∧ h ≠ 0 ∧ f = 0 ∧ w * h ≤ s.cfg.maxPixels ∧ t = (s.construct w h o).setErr .ok) := by
  unfold execInit raise succeed at ht
  split at ht
  · cases ht; exact .inl ⟨‹_›, rfl⟩
  · rename_i hd
    have hw : w ≠ 0 := fun h0 => hd (.inl h0)
    have hh : h ≠ 0 := fun h0 => hd (.inr h0)
    split at ht
    · cases ht; exact .inr (.inl ⟨hw, hh, ‹_›, rfl⟩)
    · rename_i hf
      have hf : f = 0 := by omega
      split at ht
      · cases ht; exact .inr (.inr (.inl ⟨hw, hh, hf, ‹_›, rfl⟩))
      · cases ht; exact .inr (.inr (.inr ⟨hw, hh, hf, by omega, rfl⟩))

/-! ## Painting a layer -/

/-- A layer painted by writing one colour at a list of indices. -/
def State.paint (L : Layer) (is : List Nat) (c : Color) (s : State) : State :=
  s.setFb L (is.foldl (fun m i => Memory.write m i c) (s.fb L))

theorem State.put_eq_paint (L : Layer) (x y : Int) (c : Color) (s : State) :
    s.put L x y c = s.paint L (if inBounds s.W s.H x y then [idx s.W x y] else []) c := by
  unfold State.put State.paint
  split <;> simp

theorem State.drawRect_eq_paint (L : Layer) (x y : Int) (w h t : Nat) (c : Color) (s : State) :
    s.drawRect L x y w h t c = s.paint L (bandIndices s.W s.H x y w h t) c := by
  unfold State.drawRect State.paint
  rw [Memory.drawRect_eq]

theorem State.drawTri_eq_paint (L : Layer) (a b c : Point) (t : Nat) (col : Color) (s : State) :
    s.drawTri L a b c t col = s.paint L (triIndices s.W s.H s.cfg.squareHalf a b c t) col := by
  unfold State.drawTri State.paint
  rw [Memory.drawTri_eq]

/-- What painting does to each pixel of its layer. -/
theorem State.read_paint {L : Layer} {s : State} (h : Memory.wf (s.fb L) = true) (is : List Nat) (c : Color) (j : Nat) :
    Memory.read ((s.paint L is c).fb L) j = if j ∈ is then c else Memory.read (s.fb L) j := by
  rw [State.paint, State.setFb_fb_same]
  exact (Memory.foldl_write h c is).2 j

theorem State.paint_wf {L : Layer} {s : State} (h : ∀ M, Memory.wf (s.fb M) = true) (is : List Nat) (c : Color)
    (M : Layer) : Memory.wf ((s.paint L is c).fb M) = true := by
  rw [State.paint, State.setFb_fb]
  split
  · exact (Memory.foldl_write (h L) c is).1
  · exact h M

theorem State.paint_within {L : Layer} {n : Nat} {s : State} (h : ∀ M, Memory.within n (s.fb M) = true)
    (is : List Nat) (his : ∀ i ∈ is, i < n) (c : Color) (M : Layer) :
    Memory.within n ((s.paint L is c).fb M) = true := by
  rw [State.paint, State.setFb_fb]
  split
  · exact Memory.foldl_write_within (h L) c is his
  · exact h M

/-! ## Bus accesses -/

/-- Exactly which accesses the window takes (20_memory.md R70, R74). -/
theorem locate_offset_iff {c : Config} {a off : Nat} {w : Width} :
    locate c a w = .offset off ↔ w = .w32 ∧ a = c.base + off ∧ off < 0x40 ∧ off % 4 = 0 := by
  unfold locate
  constructor
  · intro h
    split at h
    · cases h
    · split at h
      · cases h
      · split at h
        · cases h
        · cases h
          rename_i h1 h2 h3
          exact ⟨by simpa using h2, by omega, by omega, by omega⟩
  · rintro ⟨rfl, rfl, h1, h2⟩
    rw [if_neg (by omega), if_neg (by simp), if_neg (by omega)]
    congr 1
    omega

/-- All that an access can do when it is not refused. -/
theorem performAccess_cases {a : Access} {s t : State} (h : performAccess a s = .next t) :
    (∃ off, off < 0x40 ∧ off % 4 = 0 ∧ a = .read (s.cfg.base + off) .w32 ∧ t = s.hostRead off) ∨
      (∃ off v, off < 0x40 ∧ off % 4 = 0 ∧ a = .write (s.cfg.base + off) .w32 v ∧
        t = s.writeReg (regAt off) v) := by
  cases a with
  | read ad w =>
    simp only [performAccess] at h
    split at h
    · rename_i off hl
      obtain ⟨rfl, rfl, h1, h2⟩ := locate_offset_iff.mp hl
      cases h
      exact .inl ⟨off, h1, h2, rfl, rfl⟩
    · cases h
  | write ad w v =>
    simp only [performAccess] at h
    split at h
    · rename_i off hl
      obtain ⟨rfl, rfl, h1, h2⟩ := locate_offset_iff.mp hl
      cases h
      exact .inr ⟨off, v, h1, h2, rfl, rfl⟩
    · cases h

theorem performAccess_read {s : State} {off : Nat} (h1 : off < 0x40) (h2 : off % 4 = 0) :
    performAccess (.read (s.cfg.base + off) .w32) s = .next (s.hostRead off) := by
  simp only [performAccess, locate_offset_iff.mpr ⟨rfl, rfl, h1, h2⟩]

theorem performAccess_write {s : State} {off : Nat} (v : Word) (h1 : off < 0x40) (h2 : off % 4 = 0) :
    performAccess (.write (s.cfg.base + off) .w32 v) s = .next (s.writeReg (regAt off) v) := by
  simp only [performAccess, locate_offset_iff.mpr ⟨rfl, rfl, h1, h2⟩]

/-! ## Turns -/

theorem State.busy_iff {s : State} : s.busy = true ↔ ∃ q, s.eng = .busy q := by
  unfold State.busy
  cases s.eng <;> simp

theorem State.not_busy_iff {s : State} : s.busy = false ↔ s.eng = .idle := by
  unfold State.busy
  cases s.eng <;> simp

/-- Who has the turn when the engine is idle, and that no schedule entry is used up. -/
theorem State.turn_idle {s : State} (h : s.eng = .idle) : s.turn = .host ∧ s.spendTurn = s := by
  have : s.busy = false := State.not_busy_iff.mpr h
  simp [State.turn, State.spendTurn, State.contended, this]

/-- All that a step can be: the engine's, the host's, or nothing at all. -/
theorem step_cases {s t : State} (h : step s = .next t) :
    (∃ q, s.turn = .engine ∧ s.eng = .busy q ∧ complete q s.spendTurn = .next t) ∨
      (∃ x rest, s.turn = .host ∧ s.inputs = x :: rest ∧ performInput x rest s.spendTurn = .next t) ∨
      (s.eng = .idle ∧ s.inputs = [] ∧ t = s) := by
  unfold step machineStep takeTurn at h
  cases hturn : s.turn with
  | engine =>
    simp only [hturn, State.spendTurn_eng] at h
    cases he : s.eng with
    | idle => rw [(State.turn_idle he).1] at hturn; cases hturn
    | busy q => simp only [he] at h; exact .inl ⟨q, rfl, rfl, h⟩
  | host =>
    simp only [hturn, State.spendTurn_inputs] at h
    cases hi : s.inputs with
    | cons x rest => simp only [hi] at h; exact .inr (.inl ⟨x, rest, rfl, rfl, h⟩)
    | nil =>
      simp only [hi] at h
      have hb : s.busy = false := by
        cases hb : s.busy with
        | false => rfl
        | true => simp [State.turn, State.contended, hi, hb] at hturn
      have he := State.not_busy_iff.mp hb
      rw [(State.turn_idle he).2] at h
      cases h
      exact .inr (.inr ⟨he, rfl, rfl⟩)

/-- The engine's step when it has the turn. -/
theorem step_engine {s : State} {q : Latch} (hturn : s.turn = .engine) (he : s.eng = .busy q) :
    step s = complete q s.spendTurn := by
  unfold step machineStep takeTurn
  simp [hturn, he]

/-- The host's step when it has the turn. -/
theorem step_host {s : State} {x : Input} {rest : List Input} (hturn : s.turn = .host) (hi : s.inputs = x :: rest) :
    step s = performInput x rest s.spendTurn := by
  unfold step machineStep takeTurn
  simp [hturn, hi]

end Sys2Proof.Machine
end

