-- ==== Sys2Proof/Laws/Exec.lean ====
section
/-! SUPPORT. The three shapes of a command: INIT, a GET, and the nine others, which change pixel storage only. One lemma
each, so that a rule about every command is three cases and not eleven. -/

namespace Sys2Proof.Machine

theorem exec_init {i : Instr} (h : isInit i = true) : ∃ w hh o f, i = .init w hh o f ∧ exec i = execInit w hh o f := by
  cases i <;> first | exact ⟨_, _, _, _, rfl, rfl⟩ | simp [isInit] at h

theorem exec_get {i : Instr} (h : isGet i = true) : ∃ L x y, exec i = readPixel L x y := by
  cases i <;> first | exact ⟨_, _, _, rfl⟩ | simp [isGet] at h

/-- What a command that is neither INIT nor a GET does to a state with a display. -/
def storageEffect (i : Instr) (s : State) : State :=
  match i with
  | .init _ _ _ _ => s
  | .clear c => s.clearBoth c
  | .clearLayer L c => s.clearLayer L c
  | .getPixel _ _ => s
  | .getPixelLayer _ _ _ => s
  | .setPixel x y c => s.put .layer1 x y c
  | .setPixelLayer L x y c => s.put L x y c
  | .drawRect x y w h t c => s.drawRect .layer1 x y w h t c
  | .drawRectLayer L x y w h t c => s.drawRect L x y w h t c
  | .drawTri a b c t col => s.drawTri .layer1 a b c t col
  | .drawTriLayer L a b c t col => s.drawTri L a b c t col

theorem exec_storage {i : Instr} (h1 : isInit i = false) (h2 : isGet i = false) (s : State) :
    exec i s = whenReady s (storageEffect i) := by
  cases i <;> first | rfl | simp [isInit, isGet] at h1 h2

/-- Everything a command can answer: INIT's answers, a GET's, or the storage effect with its READY check. -/
theorem exec_cases {i : Instr} {s t : State} (h : exec i s = .next t) :
    (∃ w hh o f, i = .init w hh o f ∧ execInit w hh o f s = .next t) ∨
      (∃ L x y, isGet i = true ∧ exec i = readPixel L x y ∧ readPixel L x y s = .next t) ∨
      (isInit i = false ∧ isGet i = false ∧ s.ready = true ∧ t = (storageEffect i s).setErr .ok) ∨
      (isInit i = false ∧ isGet i = false ∧ s.ready = false ∧ t = s.setErr .notInitialized) := by
  cases h1 : isInit i with
  | true =>
    obtain ⟨w, hh, o, f, rfl, -⟩ := exec_init h1
    exact .inl ⟨_, _, _, _, rfl, h⟩
  | false =>
    cases h2 : isGet i with
    | true =>
      obtain ⟨L, x, y, he⟩ := exec_get h2
      exact .inr (.inl ⟨L, x, y, rfl, he, he ▸ h⟩)
    | false =>
      rw [exec_storage h1 h2] at h
      rcases whenReady_cases h with ⟨hr, ht⟩ | ⟨hr, ht⟩
      · exact .inr (.inr (.inl ⟨rfl, rfl, hr, ht⟩))
      · exact .inr (.inr (.inr ⟨rfl, rfl, hr, ht⟩))

/-! ## What the storage effects are made of: whole layers filled, or one layer painted -/

theorem State.setFb_eq (L : Layer) (m : Memory) (s : State) :
    s.setFb L m = { s with fb1 := (s.setFb L m).fb1, fb2 := (s.setFb L m).fb2 } := by
  cases L <;> rfl

theorem State.put_setFb (L : Layer) (x y : Int) (c : Color) (s : State) : ∃ m, s.put L x y c = s.setFb L m := by
  rw [State.put_eq_paint]
  exact ⟨_, rfl⟩

/-- A storage effect changes nothing but the layers. -/
theorem storageEffect_eq (i : Instr) (s : State) :
    storageEffect i s = { s with fb1 := (storageEffect i s).fb1, fb2 := (storageEffect i s).fb2 } := by
  cases i with
  | setPixel x y c => obtain ⟨m, h⟩ := s.put_setFb .layer1 x y c; simp only [storageEffect, h, State.setFb]
  | setPixelLayer L x y c =>
    obtain ⟨m, h⟩ := s.put_setFb L x y c
    simp only [storageEffect, h]
    exact State.setFb_eq ..
  | clearLayer L c => exact State.setFb_eq ..
  | drawRectLayer L x y w h t c => exact State.setFb_eq ..
  | drawTriLayer L a b c t col => exact State.setFb_eq ..
  | init | clear | getPixel | getPixelLayer | drawRect | drawTri => rfl

/-- Both facts of a layer that the invariant asks for. -/
def State.layersGood (s : State) : Prop :=
  (∀ L, Memory.wf (s.fb L) = true) ∧ ∀ L, Memory.within (s.W * s.H) (s.fb L) = true

theorem State.paint_layersGood {s : State} (h : s.layersGood) (L : Layer) (is : List Nat) (his : ∀ i ∈ is, i < s.W * s.H)
    (c : Color) : (s.paint L is c).layersGood := by
  refine ⟨fun M => State.paint_wf h.1 is c M, fun M => ?_⟩
  have := State.paint_within (L := L) h.2 is his c M
  rwa [show (s.paint L is c).W = s.W from State.setFb_W .., show (s.paint L is c).H = s.H from State.setFb_H ..]

theorem State.clearLayer_layersGood {s : State} (h : s.layersGood) (L : Layer) (c : Color) :
    (s.clearLayer L c).layersGood := by
  refine ⟨fun M => ?_, fun M => ?_⟩
  · rw [State.clearLayer, State.setFb_fb]
    split
    · exact Memory.filled_wf ..
    · exact h.1 M
  · rw [State.clearLayer, State.setFb_fb, State.setFb_W, State.setFb_H]
    split
    · exact Memory.filled_within ..
    · exact h.2 M

/-- Every index a painting writes is the index of a pixel in bounds. -/
theorem lt_of_mem_bounds {W H j : Nat} {P : Int → Int → Prop}
    (h : ∃ px py, inBounds W H px py = true ∧ P px py ∧ idx W px py = j) : j < W * H := by
  obtain ⟨px, py, hb, -, rfl⟩ := h
  exact idx_lt hb

/-- Every storage effect keeps the layers canonical and sized. -/
theorem storageEffect_layersGood {s : State} (h : s.layersGood) (i : Instr) : (storageEffect i s).layersGood := by
  have hput (L : Layer) (x y : Int) (c : Color) : (s.put L x y c).layersGood := by
    rw [State.put_eq_paint]
    refine State.paint_layersGood h _ _ (fun j hj => ?_) _
    split at hj
    · rw [List.mem_singleton] at hj
      exact hj ▸ idx_lt ‹_›
    · cases hj
  have hrect (L : Layer) (x y : Int) (w hh t : Nat) (c : Color) : (s.drawRect L x y w hh t c).layersGood := by
    rw [State.drawRect_eq_paint]
    exact State.paint_layersGood h _ _ (fun j hj => lt_of_mem_bounds (mem_bandIndices.mp hj)) _
  have htri (L : Layer) (a b c : Point) (t : Nat) (col : Color) : (s.drawTri L a b c t col).layersGood := by
    rw [State.drawTri_eq_paint]
    exact State.paint_layersGood h _ _ (fun j hj => lt_of_mem_bounds (mem_triIndices.mp hj)) _
  cases i with
  | init | getPixel | getPixelLayer => exact h
  | clear c => exact State.clearLayer_layersGood (State.clearLayer_layersGood h ..) ..
  | clearLayer L c => exact State.clearLayer_layersGood h ..
  | setPixel x y c => exact hput ..
  | setPixelLayer L x y c => exact hput ..
  | drawRect x y w h t c => exact hrect ..
  | drawRectLayer L x y w h t c => exact hrect ..
  | drawTri a b c t col => exact htri ..
  | drawTriLayer L a b c t col => exact htri ..

end Sys2Proof.Machine
end

