-- ==== Sys2Proof/Laws/PerInstr.lean ====
section
/-! SUPPORT. Per-instruction statements about the commands as syntax. -/

namespace Sys2Proof.Laws.EncodesItsRow

/-- The match value of the row of 30_encoding.md R102 that stands for a command. -/
def rowOf : Instr → Word
  | .init _ _ _ _ => 0x00000001
  | .clear _ => 0x00000002
  | .clearLayer _ _ => 0x00000003
  | .getPixel _ _ => 0x00000004
  | .getPixelLayer _ _ _ => 0x00000005
  | .setPixel _ _ _ => 0x00000006
  | .setPixelLayer _ _ _ _ => 0x00000007
  | .drawRect _ _ _ _ _ _ => 0x00000008
  | .drawRectLayer _ _ _ _ _ _ _ => 0x00000009
  | .drawTri _ _ _ _ _ => 0x0000000A
  | .drawTriLayer _ _ _ _ _ _ => 0x0000000B

/-- The match values of the rows that a command word matches. -/
def matchingRows (cw : Word) : List Word := (opcodeTable.filter fun r => r.matches cw).map OpcodeRow.value

/-- The command word of a command matches its own row of the table and no other. -/
def Statement (i : Instr) : Prop := matchingRows (encode i).cw = [rowOf i]

theorem init (w h : Nat) (o : Orientation) (f : Nat) : Statement (.init w h o f) :=
  show matchingRows (commandWord 0x01#8 0#1) = [0x01] by decide
theorem clear (c : Color) : Statement (.clear c) :=
  show matchingRows (commandWord 0x02#8 0#1) = [0x02] by decide
theorem clearLayer (l : Layer) (c : Color) : Statement (.clearLayer l c) :=
  show matchingRows (commandWord 0x03#8 (layerBit l)) = [0x03] by cases l <;> decide
theorem getPixel (x y : Nat) : Statement (.getPixel x y) :=
  show matchingRows (commandWord 0x04#8 0#1) = [0x04] by decide
theorem getPixelLayer (l : Layer) (x y : Nat) : Statement (.getPixelLayer l x y) :=
  show matchingRows (commandWord 0x05#8 (layerBit l)) = [0x05] by cases l <;> decide
theorem setPixel (x y : Nat) (c : Color) : Statement (.setPixel x y c) :=
  show matchingRows (commandWord 0x06#8 0#1) = [0x06] by decide
theorem setPixelLayer (l : Layer) (x y : Nat) (c : Color) : Statement (.setPixelLayer l x y c) :=
  show matchingRows (commandWord 0x07#8 (layerBit l)) = [0x07] by cases l <;> decide
theorem drawRect (x y : Int) (w h t : Nat) (c : Color) : Statement (.drawRect x y w h t c) :=
  show matchingRows (commandWord 0x08#8 0#1) = [0x08] by decide
theorem drawRectLayer (l : Layer) (x y : Int) (w h t : Nat) (c : Color) :
    Statement (.drawRectLayer l x y w h t c) :=
  show matchingRows (commandWord 0x09#8 (layerBit l)) = [0x09] by cases l <;> decide
theorem drawTri (a b c : Point) (t : Nat) (col : Color) : Statement (.drawTri a b c t col) :=
  show matchingRows (commandWord 0x0A#8 0#1) = [0x0A] by decide
theorem drawTriLayer (l : Layer) (a b c : Point) (t : Nat) (col : Color) :
    Statement (.drawTriLayer l a b c t col) :=
  show matchingRows (commandWord 0x0B#8 (layerBit l)) = [0x0B] by cases l <;> decide

end Sys2Proof.Laws.EncodesItsRow
end

