-- ==== Sys2Proof/Laws/Run.lean ====
section
/-! SUPPORT. Laws of runs of several steps: unfolding a run, and that the engine never looks at the host's side. -/

namespace Sys2Proof.Machine

/-! ## Runs -/

theorem core_run_zero (s : State) : Sys2Proof.core.run 0 s = .next s := rfl

/-- A run whose first step is known. -/
theorem core_run_succ {s t : State} (h : step s = .next t) (n : Nat) :
    Sys2Proof.core.run (n + 1) s = Sys2Proof.core.run n t := by
  have h' : Sys2Proof.core.step s = .next t := h
  simp only [Host.Core.run]
  rw [h']

/-- Two runs, one after the other. -/
theorem core_run_add {s t : State} {m : Nat} (h : Sys2Proof.core.run m s = .next t) (n : Nat) :
    Sys2Proof.core.run (m + n) s = Sys2Proof.core.run n t := by
  induction m generalizing s with
  | zero =>
    rw [core_run_zero] at h
    cases h
    rw [Nat.zero_add]
  | succ m ih =>
    rw [Nat.succ_add]
    simp only [Host.Core.run] at h ⊢
    split at h
    · exact ih h
    · cases h
    · cases h

/-! ## The end of a host program -/

/-- When a host program has ended (70_reset_and_hazards.md R310). -/
theorem State.ended_iff {s : State} :
    s.ended = true ↔ (∀ x ∈ s.inputs, x.byHost = false) ∧ s.unconfirmed = false := by
  simp [State.ended]

/-! ## The host's side -/

/-- The state with another host's side: the inputs, the schedule, the counter of free reads, the reads,
and whether a CMD write is unconfirmed. -/
def State.onHost (s : State) (inputs : List Input) (sched : List Agent) (draws : Nat) (reads : List HostRead)
    (unconfirmed : Bool) : State :=
  { s with inputs := inputs, sched := sched, draws := draws, reads := reads, unconfirmed := unconfirmed }

theorem storageEffect_onHost (i : Instr) (s : State) (a : List Input) (b : List Agent) (c : Nat) (d : List HostRead)
    (e : Bool) :
    storageEffect i (s.onHost a b c d e) = (storageEffect i s).onHost a b c d e := by
  have hput (L : Layer) (x y : Int) (col : Color) :
      (s.onHost a b c d e).put L x y col = (s.put L x y col).onHost a b c d e := by
    unfold State.put
    change (if inBounds s.W s.H x y = true then _ else _) =
      State.onHost (if inBounds s.W s.H x y = true then _ else _) a b c d e
    split <;> cases L <;> rfl
  cases i with
  | setPixel x y col => exact hput .layer1 x y col
  | setPixelLayer L x y col => exact hput L x y col
  | clearLayer L _ | drawRectLayer L _ _ _ _ _ _ | drawTriLayer L _ _ _ _ _ => cases L <;> rfl
  | clear | init | getPixel | getPixelLayer | drawRect | drawTri => rfl

/-- A command neither reads nor writes the host's side. -/
theorem exec_onHost {i : Instr} {s t : State} (h : exec i s = .next t) (a : List Input) (b : List Agent) (c : Nat)
    (d : List HostRead) (e : Bool) : exec i (s.onHost a b c d e) = .next (t.onHost a b c d e) := by
  rcases exec_cases h with ⟨w, hh, o, f, rfl, h'⟩ | ⟨L, x, y, -, he, h'⟩ | ⟨h1, h2, hr, rfl⟩ | ⟨h1, h2, hr, rfl⟩
  · change execInit w hh o f _ = _
    unfold execInit raise succeed at h' ⊢
    change (if w = 0 ∨ hh = 0 then _ else if f ≠ 0 then _ else if s.cfg.maxPixels < w * hh then _ else _) = _
    split_ifs at h' ⊢ <;> cases h' <;> rfl
  · have hp : (s.onHost a b c d e).pixel L x y = s.pixel L x y := by cases L <;> rfl
    rw [he]
    unfold readPixel at h' ⊢
    rw [hp]
    change (if s.ready = true then _ else _) = _
    split at h' <;> cases h'
    · rw [if_pos ‹_›]
      cases s.pixel L x y <;> rfl
    · rw [if_neg ‹_›]
      rfl
  · rw [exec_storage h1 h2, whenReady_ready (show (s.onHost a b c d e).ready = true from hr), storageEffect_onHost]
    rfl
  · rw [exec_storage h1 h2, whenReady_notReady (show (s.onHost a b c d e).ready = false from hr)]
    rfl

/-- Nor does a completion. -/
theorem complete_onHost {q : Latch} {s t : State} (h : complete q s = .next t) (a : List Input) (b : List Agent)
    (c : Nat) (d : List HostRead) (e : Bool) : complete q (s.onHost a b c d e) = .next (t.onHost a b c d e) := by
  unfold complete at h ⊢
  cases hd : decode q with
  | illegal why =>
    simp only [hd, raise, retire, Host.Outcome.next.injEq] at h ⊢
    subst h
    rfl
  | legal i =>
    simp only [hd] at h ⊢
    cases he : exec i s with
    | next u =>
      rw [he] at h
      cases h
      rw [exec_onHost he]
      rfl
    | fault f => cases f
    | refused why =>
      rw [he] at h
      cases h

/-- What using up a schedule entry changes. -/
theorem State.spendTurn_eq_onHost (s : State) :
    s.spendTurn = s.onHost s.inputs (if s.contended then s.sched.tail else s.sched) s.draws s.reads s.unconfirmed := by
  unfold State.spendTurn State.onHost
  split <;> rfl

end Sys2Proof.Machine
end

