-- ==== Sys2Proof/Tests/Slice0.lean ====
section
/-! SUPPORT. Tests on single steps, and a witness for the hypotheses of every statement. Expected values are the spec's:
95_test_vectors.md, the examples of the rules, or a hand calculation from the rule the test names. -/

namespace Sys2Proof.Tests

open Sys2Proof.Machine

/-! ## Helpers -/

/-- A display of `w x h` pixels, both layers BLACK, the engine idle. -/
def blank (w h : Nat) : State :=
  { State.reset with ready := true, width := BitVec.ofNat 16 w, height := BitVec.ofNat 16 h }

/-- An 8 x 6 display with two pixels set in Layer1 and one in Layer2. -/
def demo : State := { blank 8 6 with fb1 := [(0, 0xF800#16), (47, 0x001F#16)], fb2 := [(9, 0x07E0#16)] }

/-- The words of GET_PIXEL 7, 5. -/
def getLatch : Latch := ⟨0x00000004, 0x00050007, 0, 0, 0⟩

/-- `demo` holding GET_PIXEL 7, 5. -/
def demoBusy : State := { demo with eng := .busy getLatch }

/-- The answer is a next state, and it satisfies `p`. -/
def nextWith (r : Result) (p : State → Bool) : Bool :=
  match r with
  | .next t => p t
  | .fault _ => false
  | .refused _ => false

/-- The answer is this refusal. -/
def refusedWith (r : Result) (why : Refusal) : Bool :=
  match r with
  | .refused w => decide (w = why)
  | .next _ => false
  | .fault _ => false

theorem demo_inv : Inv demo where
  params := by decide
  display := by decide
  noDisplay := by decide
  format := by decide
  code := by decide
  result := by decide
  canonical := by intro L; cases L <;> decide
  sized := by intro _ L; cases L <;> decide

/-! ## WellFormed: an ill-formed command for each check (30_encoding.md R109) -/

theorem test_wellFormed_init_width : (Instr.init 65536 1 .portrait 0).wellFormed = false := by decide
theorem test_wellFormed_init_height : (Instr.init 1 65536 .portrait 0).wellFormed = false := by decide
theorem test_wellFormed_init_format : (Instr.init 1 1 .portrait 16).wellFormed = false := by decide
theorem test_wellFormed_getPixel_x : (Instr.getPixel 65536 0).wellFormed = false := by decide
theorem test_wellFormed_getPixelLayer_y : (Instr.getPixelLayer .layer2 0 65536).wellFormed = false := by decide
theorem test_wellFormed_setPixel_x : (Instr.setPixel 65536 0 0).wellFormed = false := by decide
theorem test_wellFormed_setPixelLayer_y : (Instr.setPixelLayer .layer1 0 65536 0).wellFormed = false := by decide
theorem test_wellFormed_drawRect_x : (Instr.drawRect (-32769) 0 1 1 1 0).wellFormed = false := by decide
theorem test_wellFormed_drawRect_y : (Instr.drawRect 0 32768 1 1 1 0).wellFormed = false := by decide
theorem test_wellFormed_drawRect_w : (Instr.drawRect 0 0 65536 1 1 0).wellFormed = false := by decide
theorem test_wellFormed_drawRectLayer_h : (Instr.drawRectLayer .layer1 0 0 1 65536 1 0).wellFormed = false := by decide
theorem test_wellFormed_drawRectLayer_t : (Instr.drawRectLayer .layer1 0 0 1 1 65536 0).wellFormed = false := by decide
theorem test_wellFormed_drawTri_a : (Instr.drawTri ⟨32768, 0⟩ ⟨0, 0⟩ ⟨0, 0⟩ 1 0).wellFormed = false := by decide
theorem test_wellFormed_drawTri_b : (Instr.drawTri ⟨0, 0⟩ ⟨0, -32769⟩ ⟨0, 0⟩ 1 0).wellFormed = false := by decide
theorem test_wellFormed_drawTriLayer_c :
    (Instr.drawTriLayer .layer2 ⟨0, 0⟩ ⟨0, 0⟩ ⟨32768, 0⟩ 1 0).wellFormed = false := by decide
theorem test_wellFormed_drawTriLayer_t :
    (Instr.drawTriLayer .layer2 ⟨0, 0⟩ ⟨0, 0⟩ ⟨0, 0⟩ 65536 0).wellFormed = false := by decide

/-! ## Decoding: a word of each command, written out from 30_encoding.md R102 and R103 -/

theorem test_decode_init : decode ⟨0b00000000000000000000000000000001, 0x00060008, 0x00000002, 0, 0⟩ =
    .legal (.init 8 6 .invertedPortrait 0) := by decide
theorem test_decode_clear : decode ⟨0b00000000000000000000000000000010, 0x00001234, 0, 0, 0⟩ =
    .legal (.clear 0x1234) := by decide
theorem test_decode_clearLayer : decode ⟨0b00000000000000000000000100000011, 0x0000F800, 0, 0, 0⟩ =
    .legal (.clearLayer .layer2 0xF800) := by decide
theorem test_decode_getPixel : decode ⟨0b00000000000000000000000000000100, 0x00050007, 0, 0, 0⟩ =
    .legal (.getPixel 7 5) := by decide
theorem test_decode_getPixelLayer : decode ⟨0b00000000000000000000000100000101, 0xFFFF0000, 0, 0, 0⟩ =
    .legal (.getPixelLayer .layer2 0 65535) := by decide
theorem test_decode_setPixel : decode ⟨0b00000000000000000000000000000110, 0x00020003, 0x000007E0, 0, 0⟩ =
    .legal (.setPixel 3 2 0x07E0) := by decide
theorem test_decode_setPixelLayer : decode ⟨0b00000000000000000000000000000111, 0x00010002, 0xABCD001F, 0, 0⟩ =
    .legal (.setPixelLayer .layer1 2 1 0x001F) := by decide
theorem test_decode_drawRect :
    decode ⟨0b00000000000000000000000000001000, 0x80007FFF, 0x00040006, 0xDEADBEEF, 0x0001FFFF⟩ =
      .legal (.drawRect 32767 (-32768) 6 4 1 0xFFFF) := by decide
theorem test_decode_drawRectLayer :
    decode ⟨0b00000000000000000000000100001001, 0xFFFFFFFE, 0xFFFF0001, 0, 0x0003F800⟩ =
      .legal (.drawRectLayer .layer2 (-2) (-1) 1 65535 3 0xF800) := by decide
theorem test_decode_drawTri :
    decode ⟨0b00000000000000000000000000001010, 0x00000000, 0x00000004, 0x00040000, 0x0001FFFF⟩ =
      .legal (.drawTri ⟨0, 0⟩ ⟨4, 0⟩ ⟨0, 4⟩ 1 0xFFFF) := by decide
theorem test_decode_drawTriLayer :
    decode ⟨0b00000000000000000000000100001011, 0xFFFDFFFD, 0xFFFD0008, 0x0008FFFD, 0x000107E0⟩ =
      .legal (.drawTriLayer .layer2 ⟨-3, -3⟩ ⟨8, -3⟩ ⟨-3, 8⟩ 1 0x07E0) := by decide
theorem test_decode_opcode_zero : decode ⟨0x00000000, 0, 0, 0, 0⟩ = .illegal .opcodeZero := by decide
theorem test_decode_opcode_above : decode ⟨0x000000FF, 0, 0, 0, 0⟩ = .illegal .unknownOpcode := by decide
theorem test_decode_stray_layer : decode ⟨0x00000104, 0, 0, 0, 0⟩ = .illegal .strayLayer := by decide
theorem test_decode_reserved : decode ⟨0x00000202, 0, 0, 0, 0⟩ = .illegal .reservedBits := by decide
/-- A byte image is little-endian (20_memory.md R73): the words of GET_PIXEL 7, 5. -/
theorem test_decode_bytes :
    decodeBytes [0x04, 0, 0, 0, 0x07, 0, 0x05, 0, 0, 0, 0, 0, 0, 0, 0, 0, 0, 0, 0, 0] = .legal (.getPixel 7 5) := by
  decide
theorem test_decode_bytes_truncated : decodeBytes [0x04, 0, 0, 0] = .illegal .truncated := by decide
theorem test_decodeTableWord : decodeTableWord 64 0x0005000700000004 = some (.getPixel 7 5) := by decide

/-- No word matches two rows of the table. -/
theorem test_table_disjoint :
    opcodeTable.Pairwise fun a b => a.value &&& a.mask &&& b.mask ≠ b.value &&& a.mask &&& b.mask := by
  decide

/-! ## One step of each command -/

/-- The example of 40_display.md R134: SIZE = 0x00060008 and both layers BLACK. -/
theorem test_init_constructs :
    nextWith (exec (.init 8 6 .portrait 0) State.reset) (fun t =>
      t.ready && decide (t.err = 0) && decide (t.sizeWord = 0x00060008) && decide (t.pixel .layer2 7 5 = some BLACK)) =
      true := by
  decide
/-- P2 of 95_test_vectors.md: INIT 4, 3, 0, 1 gives ERR 2 and no display. -/
theorem test_init_format :
    nextWith (exec (.init 4 3 .portrait 1) State.reset) (fun t => !t.ready && decide (t.err = 2)) = true := by decide
/-- The example of 40_display.md R140. -/
theorem test_clear :
    nextWith (exec (.clear 0x1234) (blank 3 2)) (fun t =>
      decide (layerPixels 6 t.fb1 = List.replicate 6 0x1234#16) && decide (t.fb2 = t.fb1)) = true := by
  decide
/-- The first line of P2: CLEAR before INIT gives ERR 4. -/
theorem test_clear_without_display :
    nextWith (exec (.clear 0x1234) State.reset) (fun t => decide (t.err = 4) && decide (t.fb1 = [])) = true := by decide
/-- The example of 40_display.md R142. -/
theorem test_clearLayer :
    nextWith (exec (.clearLayer .layer2 0xF800) (blank 4 3)) (fun t =>
      decide (t.fb1 = []) && decide (layerPixels 12 t.fb2 = List.replicate 12 0xF800#16)) = true := by
  decide
/-- The last pixel of the canvas, and one column further (40_display.md R144). -/
theorem test_getPixel :
    nextWith (exec (.getPixel 7 5) demo) (fun t => decide (t.resultWord = 0x0001001F)) = true := by decide
theorem test_getPixel_outside :
    nextWith (exec (.getPixel 8 0) demo) (fun t => decide (t.resultWord = 0) && decide (t.err = 0)) = true := by decide
/-- 40_display.md R146: the two layers hold different pixels at (1, 1). -/
theorem test_getPixelLayer :
    nextWith (exec (.getPixelLayer .layer2 1 1) demo) (fun t => decide (t.resultWord = 0x000107E0)) = true := by decide
theorem test_getPixelLayer_other :
    nextWith (exec (.getPixelLayer .layer1 1 1) demo) (fun t => decide (t.resultWord = 0x00010000)) = true := by decide
/-- 40_display.md R148: (3, 2) of an 8-pixel row is index 19. -/
theorem test_setPixel :
    nextWith (exec (.setPixel 3 2 0x07E0) (blank 8 6)) (fun t =>
      decide (t.fb1 = [(19, 0x07E0#16)]) && decide (t.fb2 = [])) = true := by
  decide
/-- x = W is no pixel, and does not wrap into the next row. -/
theorem test_setPixel_outside :
    nextWith (exec (.setPixel 8 2 0x07E0) (blank 8 6)) (fun t => decide (t.fb1 = []) && decide (t.err = 0)) = true := by
  decide
/-- 40_display.md R150. -/
theorem test_setPixelLayer :
    nextWith (exec (.setPixelLayer .layer2 1 1 0x001F) (blank 4 3)) (fun t =>
      decide (t.fb1 = []) && decide (t.fb2 = [(5, 0x001F#16)])) = true := by
  decide
/-- A rectangle that overhangs the left and the top edge (95_test_vectors.md V7): the part in the canvas. -/
theorem test_drawRect_clipped :
    nextWith (exec (.drawRect (-1) (-1) 3 3 1 0xFFFF) (blank 4 3)) (fun t =>
      decide (t.fb1 = [(1, 0xFFFF#16), (4, 0xFFFF#16), (5, 0xFFFF#16)])) = true := by
  decide
/-- The bottom band is drawn below the top one (41_rectangle.md R174): h = 3, t = 1. -/
theorem test_drawRectLayer :
    nextWith (exec (.drawRectLayer .layer2 0 0 3 3 1 0xF800) (blank 3 3)) (fun t =>
      decide (t.fb1 = []) &&
        decide (layerPixels 9 t.fb2 =
          [0xF800#16, 0xF800#16, 0xF800#16, 0xF800#16, 0, 0xF800#16, 0xF800#16, 0xF800#16, 0xF800#16])) = true := by
  decide
/-- The first row of 95_test_vectors.md V30: (1,1), (1,1), (4,3). -/
theorem test_drawTri :
    nextWith (exec (.drawTri ⟨1, 1⟩ ⟨1, 1⟩ ⟨4, 3⟩ 1 0xFFFF) (blank 6 6)) (fun t =>
      decide (t.fb1 = [(7, 0xFFFF#16), (14, 0xFFFF#16), (15, 0xFFFF#16), (22, 0xFFFF#16)])) = true := by
  decide
/-- The second row of V30: thickness 2, rows 1 to 2, columns 1 to 3 (`SQUARE_HALF(2) = 1`). -/
theorem test_drawTriLayer_even :
    nextWith (exec (.drawTriLayer .layer2 ⟨2, 2⟩ ⟨2, 2⟩ ⟨3, 2⟩ 2 0xFFFF) (blank 6 6)) (fun t =>
      decide (t.fb1 = []) && decide (t.fb2.map Prod.fst = [7, 8, 9, 13, 14, 15])) = true := by
  decide
/-- 42_line_triangle.md R201 (e): the middle point of a line depends on its direction. -/
theorem test_line_direction :
    (linePoints ⟨0, 0⟩ ⟨4, 1⟩)[2]? = some ⟨2, 1⟩ ∧ (linePoints ⟨4, 1⟩ ⟨0, 0⟩)[2]? = some ⟨2, 0⟩ := by decide

/-! ## The window and the step -/

/-- 95_test_vectors.md V34: a write of 0xFFFFFFFF to STATUS clears OVR only. -/
theorem test_status_write :
    nextWith (performAccess (.write 0x04 .w32 0xFFFFFFFF) { demo with ovr := true, err := 3#4 }) (fun t =>
      !t.ovr && decide (t.err = 3) && t.ready) = true := by
  decide
/-- V34: a CMD write while BUSY is dropped and sets OVR. -/
theorem test_overrun :
    nextWith (performAccess (.write 0x10 .w32 0x00000002) demoBusy) (fun t =>
      t.ovr && decide (t.eng = demoBusy.eng)) = true := by
  decide
/-- V34: SIZE and INFO of an 8 x 6 landscape display. -/
theorem test_size_info :
    ({ demo with orient := .landscape } : State).readReg .size 0 = 0x00060008 ∧
      ({ demo with orient := .landscape } : State).readReg .info 0 = 0x00000001 := by decide
theorem test_misaligned : refusedWith (performAccess (.read 0x02 .w32) demo) .misaligned = true := by decide
theorem test_width : refusedWith (performAccess (.read 0x04 .w16) demo) .unsupportedWidth = true := by decide
theorem test_outside : refusedWith (performAccess (.read 0x40 .w32) demo) .outsideWindow = true := by decide
/-- An illegal word leaves RESULT and completes with code 5 (the end of P2). -/
theorem test_illegal :
    nextWith (step (State.reset.withFetchWord 32 0x00000104)) (fun t =>
      decide (t.err = 5) && decide (t.eng = .idle) && decide (t.resultWord = 0)) = true := by
  decide
/-- The first step of a held INIT, from reset. -/
theorem test_step_init :
    nextWith (step (State.reset.withFetchWord 96 0x000000000006000800000001)) (fun t =>
      t.ready && decide (t.sizeWord = 0x00060008) && decide (t.eng = .idle)) = true := by
  decide
/-- A program that ends in a CMD write without a STATUS read has not ended, even when the command has completed
(70_reset_and_hazards.md R310). -/
theorem test_not_ended_without_status_read :
    nextWith (performAccess (.write 0x10 .w32 0x00000004) demo) (fun t =>
      nextWith (step t) (fun u => decide (u.eng = .idle) && u.inputs.isEmpty && !u.ended)) = true := by
  decide
/-- With the STATUS read that returns BUSY = 0 it has. -/
theorem test_ended_by_status_read :
    nextWith (performAccess (.read 0x04 .w32) { demo with unconfirmed := true }) State.ended = true := by decide
/-- A hardware reset still to come is the platform's, and a WAIT still to do is the host's. -/
theorem test_ended_before_a_reset :
    ({ demo with inputs := [.hardReset] } : State).ended = true
      ∧ ({ demo with inputs := [.hardReset, .wait] } : State).ended = false := by decide
/-- The stream of 95_test_vectors.md V33. -/
theorem test_snapshot :
    ({ blank 2 1 with fb1 := [(0, 0xF800#16), (1, 0x001F#16)] } : State).snapshot =
      [0x50, 0x36, 0x0A, 0x32, 0x20, 0x31, 0x0A, 0x32, 0x35, 0x35, 0x0A, 0xFF, 0, 0, 0, 0, 0xFF] := by
  decide
/-- Two rows of 95_test_vectors.md V32. -/
theorem test_colours : fromRGB888 200 100 50 = 0xCB26 ∧ toRGB888 0x1234 = ⟨16, 69, 165⟩ := by decide

/-- V34: the soft reset while BUSY discards the held command and the display. -/
theorem test_soft_reset :
    nextWith (performAccess (.write 0x00 .w32 0x00000001) demoBusy) (fun t =>
      decide (t.eng = .idle) && !t.ready && decide (t.sizeWord = 0)) = true := by
  decide

/-! ## Witnesses: concrete values that meet the hypotheses of each statement, clause by clause

A statement without hypotheses (KnownWordsDecode, ArgRegistersStoreAndReadBack, StatusWriteClearsOnlyOverrun,
ResetStateHasTheSpecsValues, LinePointsCountAndEnds, PlainCommandsAreLayer1Forms, EveryCommandCompletesInItsFrame,
ResetMeetsTheInvariant and the two about colours) needs none. -/

/-- A command whose every operand stands at an end of its field. -/
def edgeRect : Instr := .drawRectLayer .layer2 (-32768) 32767 65535 0 65535 0xFFFF

/-- Its words with every reserved operand bit set. -/
def edgeLatch : Latch := { encode edgeRect with a2 := 0xFFFFFFFF }

theorem witness_DecodeOfEncodeIsTheCommand :
    edgeRect.wellFormed = true ∧ (Instr.init 65535 65535 .invertedLandscape 15).wellFormed = true
      ∧ (Instr.drawTri ⟨-32768, 32767⟩ ⟨32767, -32768⟩ ⟨0, -1⟩ 65535 0).wellFormed = true
      ∧ (Instr.setPixel 65535 65535 0).wellFormed = true := by
  decide

theorem witness_EncodeOfDecodedKeepsEveryListedBit :
    decode edgeLatch = .legal edgeRect
      ∧ decode ⟨1, 0xFFFFFFFF, 0xFFFFFFFF, 7, 7⟩ = .legal (.init 65535 65535 .invertedLandscape 15) := by
  decide

theorem witness_ReservedOperandBitsAreIgnored :
    decode edgeLatch = .legal edgeRect ∧ (encode edgeRect).cw = edgeLatch.cw
      ∧ (encode edgeRect).a0 &&& (listedBits edgeRect).a0 = edgeLatch.a0 &&& (listedBits edgeRect).a0
      ∧ (encode edgeRect).a1 &&& (listedBits edgeRect).a1 = edgeLatch.a1 &&& (listedBits edgeRect).a1
      ∧ (encode edgeRect).a2 &&& (listedBits edgeRect).a2 = edgeLatch.a2 &&& (listedBits edgeRect).a2
      ∧ (encode edgeRect).a3 &&& (listedBits edgeRect).a3 = edgeLatch.a3 &&& (listedBits edgeRect).a3
      ∧ encode edgeRect ≠ edgeLatch := by
  decide

theorem witness_IllegalWordsCompleteWithIllegalCommand :
    demo.eng = .idle ∧ decode ⟨0x00000000, 0, 0, 0, 0⟩ = .illegal .opcodeZero
      ∧ decode ⟨0x0000000C, 0, 0, 0, 0⟩ = .illegal .unknownOpcode
      ∧ decode ⟨0x00000200, 0, 0, 0, 0⟩ = .illegal .reservedBits
      ∧ decode ⟨0x0000010A, 0, 0, 0, 0⟩ = .illegal .strayLayer := by
  decide

theorem witness_StatusReadsItsFields : demo.busy = false ∧ demoBusy.busy = true := by decide

theorem witness_SizeInfoResultReadTheirFields : demo.eng = .idle := by decide

theorem witness_CommandWriteIssuesOrIsDropped : demo.eng = .idle ∧ demoBusy.busy = true := by decide

/-- `demo` with OVR set and the two inputs that clear it, one after the other. -/
def overrunState : State :=
  { demo with ovr := true, inputs := [.access (.write 0x04 .w32 0x00000004), .hardReset] }

theorem witness_OverrunStaysUntilClearedOrReset_write :
    demoBusy.busy = true ∧ ∃ t, step overrunState = .next t ∧ overrunState.ovr = true ∧ t.ovr = false :=
  ⟨rfl, _, rfl, rfl, rfl⟩

theorem witness_OverrunStaysUntilClearedOrReset_reset :
    ∃ t, step { overrunState with inputs := [.hardReset] } = .next t ∧ t.ovr = false := ⟨_, rfl, rfl⟩

theorem witness_ResetGivesEveryRegisterItsValue :
    (0xFFFFFFFF : Word).getLsbD 0 = true ∧ (0xFFFFFFFE : Word).getLsbD 0 = false := by decide

/-- The first and the last reserved offset, and the last byte of the window. -/
theorem witness_WindowAccessesBehaveAsTabled :
    (0x28 ≤ 0x28 ∧ 0x28 < 0x40 ∧ 0x28 % 4 = 0) ∧ (0x28 ≤ 0x3C ∧ 0x3C < 0x40 ∧ 0x3C % 4 = 0)
      ∧ (0x3F < 0x40 ∧ Width.w8 ≠ .w32 ∧ Width.w16 ≠ .w32) ∧ (0x3F < 0x40 ∧ 0x3F % 4 ≠ 0) := by
  decide

theorem witness_ExactlyTheSupportedInputsRun :
    supported demo.cfg (.access (.read 0x3C .w32)) = true ∧ supported demo.cfg (.access (.read 0x40 .w32)) = false := by
  decide

theorem witness_ReadsLeaveTheDeviceAlone : (0x3C < 0x40 ∧ 0x3C % 4 = 0) ∧ (0 < 0x40 ∧ 0 % 4 = 0) := by decide

theorem witness_BusyReadsReturnFreeValues :
    demoBusy.busy = true
      ∧ ((0x20, demoBusy.arg3) : Nat × Word) ∈ [(0x14, demoBusy.arg0), (0x18, demoBusy.arg1), (0x1C, demoBusy.arg2),
          (0x20, demoBusy.arg3), (0x00, 0), (0x10, 0)] := by
  decide

/-- Each branch of INIT: a zero, a format, one pixel too many, and as many as fit. -/
theorem witness_InitConstructsOrRaises :
    (0 < 65536 ∧ 65535 < 65536 ∧ 15 < 16) ∧ ((65535 : Nat) ≠ 0 ∧ (15 : Nat) ≠ 0)
      ∧ ({ demo with cfg := ⟨0, 47, .upperLeft⟩ } : State).cfg.maxPixels < 8 * 6
      ∧ 8 * 6 ≤ ({ demo with cfg := ⟨0, 48, .upperLeft⟩ } : State).cfg.maxPixels
      ∧ (⟨1, 0xFFFFFFFF, 0xFFFFFFFF, 0, 0⟩ : Latch).cw = 0x00000001 := by
  decide

theorem witness_ClearFillsBothLayers :
    Inv demo ∧ demo.ready = true ∧ State.reset.ready = false ∧ inBounds demo.W demo.H 7 5 = true
      ∧ demo.W * demo.H ≤ 48 ∧ (⟨2, 5, 0, 0, 0⟩ : Latch).cw = 0x00000002 :=
  ⟨demo_inv, by decide, by decide, by decide, by decide, by decide⟩

theorem witness_ClearLayerFillsOneLayer :
    Inv demo ∧ demo.ready = true ∧ State.reset.ready = false
      ∧ (⟨0x103, 5, 0, 0, 0⟩ : Latch).cw = (if Layer.layer2 = .layer1 then 0x00000003 else 0x00000103) :=
  ⟨demo_inv, by decide, by decide, by decide⟩

/-- The last pixel, the first column and the first row outside, and no display. -/
theorem witness_GetPixelReadsLayer1 :
    (demo.ready = true ∧ 7 < demo.W ∧ 5 < demo.H) ∧ demo.W ≤ 8 ∧ demo.H ≤ 6 ∧ State.reset.ready = false
      ∧ getLatch.cw = 0x00000004 := by
  decide

theorem witness_GetPixelLayerReadsChosenLayer :
    (demo.ready = true ∧ 7 < demo.W ∧ 5 < demo.H) ∧ demo.W ≤ 8 ∧ demo.H ≤ 6 ∧ State.reset.ready = false
      ∧ ({ getLatch with cw := 5 } : Latch).cw = (if Layer.layer1 = .layer1 then 0x00000005 else 0x00000105) := by
  decide

theorem witness_SetPixelWritesOnePixelOfLayer1 :
    Inv demo ∧ demo.ready = true ∧ State.reset.ready = false ∧ ({ getLatch with cw := 6 } : Latch).cw = 0x00000006 :=
  ⟨demo_inv, by decide, by decide, by decide⟩

theorem witness_SetPixelLayerWritesOnePixel :
    Inv demo ∧ demo.ready = true ∧ State.reset.ready = false
      ∧ ({ getLatch with cw := 0x107 } : Latch).cw = (if Layer.layer2 = .layer1 then 0x00000007 else 0x00000107) :=
  ⟨demo_inv, by decide, by decide, by decide⟩

/-- A painted pixel at the corner of the canvas, and an index no pixel of the rectangle has. -/
theorem witness_FillSetsExactlyTheClippedSpan :
    Memory.wf demo.fb1 = true ∧ inBounds 8 6 7 5 = true
      ∧ ((-1 : Int) ≤ 7 ∧ (7 : Int) < -1 + 9 ∧ (5 : Int) ≤ 5 ∧ (5 : Int) < 5 + 70000)
      ∧ ∀ px py, inBounds 8 6 px py = true → -1 ≤ px → px < -1 + 9 → 5 ≤ py → py < 5 + 70000 → idx 8 px py ≠ 39 := by
  refine ⟨by decide, by decide, by decide, fun px py h1 h2 h3 h4 h5 h6 => ?_⟩
  simp only [inBounds, Bool.and_eq_true, decide_eq_true_eq] at h1
  unfold idx at h6
  omega

theorem witness_DrawRectPaintsTheFourBands :
    Inv demo ∧ demo.ready = true ∧ State.reset.ready = false ∧ inBounds demo.W demo.H 1 1 = true
      ∧ inBands 1 1 6 4 1 1 1 ∧ ¬ inBands 1 1 6 4 1 2 2 ∧ ({ getLatch with cw := 8 } : Latch).cw = 0x00000008 :=
  ⟨demo_inv, by decide, by decide, by decide, by unfold inBands inRect; decide, by unfold inBands inRect; decide,
    by decide⟩

theorem witness_DrawRectLayerPaintsTheChosenLayer :
    Inv demo ∧ demo.ready = true ∧ State.reset.ready = false
      ∧ edgeLatch.cw = (if Layer.layer2 = .layer1 then 0x00000009 else 0x00000109) :=
  ⟨demo_inv, by decide, by decide, by decide⟩

/-- A pixel that a stroke of side 2 reaches above and left of its point. -/
theorem witness_DrawTriPaintsTheStrokedEdges :
    Inv demo ∧ demo.ready = true ∧ State.reset.ready = false
      ∧ ((2 : Nat) ≠ 0 ∧ ¬ ((⟨2, 2⟩ : Point) = ⟨2, 2⟩ ∧ (⟨2, 2⟩ : Point) = ⟨3, 2⟩)
        ∧ inStroke (squareHalf demo.cfg.squareHalf 2) ⟨2, 2⟩ ⟨2, 2⟩ ⟨3, 2⟩ 2 1 1)
      ∧ ({ getLatch with cw := 0xA } : Latch).cw = 0x0000000A :=
  ⟨demo_inv, by decide, by decide, ⟨by decide, by decide, ⟨2, 2⟩, by decide, by unfold inRect; decide⟩, by decide⟩

theorem witness_DrawTriLayerPaintsTheChosenLayer :
    Inv demo ∧ demo.ready = true ∧ State.reset.ready = false
      ∧ ({ getLatch with cw := 0x10B } : Latch).cw = (if Layer.layer2 = .layer1 then 0x0000000B else 0x0000010B) :=
  ⟨demo_inv, by decide, by decide, by decide⟩

/-- A pixel on the ring and one inside it, of a 6 x 4 rectangle of thickness 1. -/
theorem witness_RectangleOutlineHasItsClosedForm :
    Inv demo ∧ demo.ready = true ∧ (1 ≤ 6 ∧ 1 ≤ 4 ∧ 1 ≤ 1) ∧ inOutline 1 1 6 4 1 6 4 ∧ ¬ inOutline 1 1 6 4 1 5 3 :=
  ⟨demo_inv, by decide, by decide, by unfold inOutline inRect; decide, by unfold inOutline inRect; decide⟩

/-- A rectangle that fills its canvas. -/
theorem witness_RectangleInsideTheCanvasHasItsCount :
    1 + 6 ≤ 7 ∧ 1 + 4 ≤ 5 ∧ 1 ≤ 6 ∧ 1 ≤ 4 ∧ 1 ≤ 1 ∧ (0x0001#16 : Color) ≠ BLACK := by decide

/-- Each way of being a no-op, the four edges of the canvas touched from outside among them. -/
theorem witness_DegenerateShapesDrawNothing :
    demo.ready = true ∧ (-6 : Int) + 6 ≤ 0 ∧ (demo.W : Int) ≤ 8 ∧ (-4 : Int) + 4 ≤ 0 ∧ (demo.H : Int) ≤ 6
      ∧ ((⟨2, 2⟩ : Point) = ⟨2, 2⟩ ∧ (⟨2, 2⟩ : Point) = ⟨2, 2⟩) := by
  decide

/-- A turn on a tie (the middle point of R201 (e)), the last turn, and the stop. -/
theorem witness_LinePointsFollowTheLoop :
    (linePoints ⟨4, 1⟩ ⟨0, 0⟩)[1]? = some ⟨3, 1⟩ ∧ (linePoints ⟨4, 1⟩ ⟨0, 0⟩)[1 + 1]? = some ⟨2, 0⟩
      ∧ (⟨3, 1⟩ : Point) ≠ ⟨0, 0⟩ ∧ (linePoints ⟨4, 1⟩ ⟨0, 0⟩)[4]? = some ⟨0, 0⟩ := by
  decide

theorem witness_StraightLinesVisitTheWholeSegment :
    ((⟨-2, 3⟩ : Point).x - (⟨1, 0⟩ : Point).x).natAbs = ((⟨-2, 3⟩ : Point).y - (⟨1, 0⟩ : Point).y).natAbs
      ∧ (⟨0, 1⟩ : Point) ∈ linePoints ⟨1, 0⟩ ⟨-2, 3⟩ := by
  decide

/-- Without a display: a command that is no INIT, and the step of an INIT that makes one. -/
theorem witness_WithoutADisplayOnlyInitRuns :
    State.reset.ready = false ∧ isInit (.getPixel 0 0) = false
      ∧ ∃ t, step (State.reset.withFetchWord 64 0x0000000100000001) = .next t ∧ t.err = 1
          ∧ ∃ u, step (State.reset.withFetchWord 64 0x0001000100000001) = .next u ∧ u.ready = true :=
  ⟨rfl, rfl, _, rfl, rfl, _, rfl, rfl⟩

theorem witness_ResultIsWrittenByGetsOnly :
    (∃ t, exec (.clear 1) demo = .next t ∧ isGet (.clear 1) = false)
      ∧ (∃ t, decode ⟨0x104, 0, 0, 0, 0⟩ = .illegal .strayLayer ∧ complete ⟨0x104, 0, 0, 0, 0⟩ demo = .next t)
      ∧ (∃ t, exec (.getPixel 7 5) { demo with resValid := true, resColor := 5 } = .next t
          ∧ isGet (.getPixel 7 5) = true)
      ∧ (∃ t, exec (.getPixel 7 5) State.reset = .next t ∧ State.reset.ready = false)
      ∧ (∃ t, step demoBusy = .next t ∧ t.resValid = true ∧ demoBusy.resValid = false) :=
  ⟨⟨_, rfl, rfl⟩, ⟨_, rfl, rfl⟩, ⟨_, rfl, rfl⟩, ⟨_, rfl, rfl⟩, ⟨_, rfl, rfl, rfl⟩⟩

theorem witness_CodesEachCommandCompletesWith :
    (∃ t, exec (.init 0 1 .portrait 0) demo = .next t ∧ isInit (.init 0 1 .portrait 0) = true)
      ∧ (∃ t, exec (.clear 1) demo = .next t ∧ isInit (.clear 1) = false)
      ∧ (∃ t, complete ⟨0, 0, 0, 0, 0⟩ demo = .next t) :=
  ⟨⟨_, rfl, rfl⟩, ⟨_, rfl, rfl⟩, ⟨_, rfl⟩⟩

theorem witness_StatusCodePriority :
    (∃ t, complete ⟨0, 0, 0, 0, 0⟩ demo = .next t) ∧ (∃ t, complete ⟨1, 0, 0x100, 0, 0⟩ demo = .next t)
      ∧ (∃ t, complete getLatch State.reset = .next t) :=
  ⟨⟨_, rfl⟩, ⟨_, rfl⟩, ⟨_, rfl⟩⟩

theorem witness_CommandsLeaveOtherLayersAlone :
    (∃ t, exec (.setPixel 1 1 5) demo = .next t) ∧ writesLayer (.setPixel 1 1 5) .layer2 = false :=
  ⟨⟨_, rfl⟩, rfl⟩

theorem witness_CommandsAreIdempotentOnStorage :
    (Instr.setPixel 1 1 5).wellFormed = true ∧ Inv demo
      ∧ ∃ t, exec (.setPixel 1 1 5) demo = .next t ∧ ∃ u, exec (.setPixel 1 1 5) t = .next u :=
  ⟨rfl, demo_inv, _, rfl, _, rfl⟩

/-- The last pixel in bounds, and one out of bounds. -/
theorem witness_SetThenGetReturnsTheColour :
    Inv demo ∧ demo.ready = true
      ∧ (∃ t u, exec (.setPixelLayer .layer2 7 5 9) demo = .next t ∧ exec (.getPixelLayer .layer2 7 5) t = .next u)
      ∧ (∃ t u, exec (.setPixelLayer .layer2 8 5 9) demo = .next t ∧ exec (.getPixelLayer .layer2 8 5) t = .next u) :=
  ⟨demo_inv, rfl, ⟨_, _, rfl, rfl⟩, ⟨_, _, rfl, rfl⟩⟩

/-- A display of exactly as many pixels as fit, read at its last pixel. -/
theorem witness_InitThenClearShowsTheColour :
    2 * 1 ≤ ({ demo with cfg := ⟨0, 2, .upperLeft⟩ } : State).cfg.maxPixels
      ∧ ∃ t u v, exec (.init 2 1 .landscape 0) { demo with cfg := ⟨0, 2, .upperLeft⟩ } = .next t
        ∧ exec (.clear 9) t = .next u ∧ exec (.getPixel 1 0) u = .next v :=
  ⟨by decide, _, _, _, rfl, rfl, rfl⟩

/-- `demo` holding a command, with a WAIT to do and the schedule naming the host once, then the engine. -/
def waiting : State := { demoBusy with inputs := [.wait], sched := [.host, .engine] }

theorem witness_StepRunsTheHeldCommand :
    demoBusy.turn = .engine ∧ demoBusy.eng = .busy getLatch ∧ decode getLatch = .legal (.getPixel 7 5) := by decide

theorem witness_TurnIsTheEnginesOrTheHosts :
    waiting.turn = .host ∧ ({ waiting with sched := [] } : State).turn = .engine ∧ demo.turn = .host := by decide

theorem witness_EveryStepKeepsTheInvariant : Inv demo ∧ ∃ t, step { demo with inputs := [.hardReset] } = .next t :=
  ⟨demo_inv, _, rfl⟩

theorem witness_SizeAndInfoChangeOnlyAtInitOrReset :
    (∃ t, step (demo.withFetchWord 64 0x0001000200000001) = .next t ∧ t.sizeWord = 0x00010002)
      ∧ (∃ t, step { demo with inputs := [.hardReset] } = .next t ∧ t.sizeWord = 0)
      ∧ (∃ t, step demoBusy = .next t ∧ t.sizeWord = demo.sizeWord) :=
  ⟨⟨_, rfl, by decide⟩, ⟨_, rfl, by decide⟩, ⟨_, rfl, by decide⟩⟩

theorem witness_HeldCommandsComplete :
    waiting.busy = true ∧ ∀ x ∈ waiting.inputs, supported waiting.cfg x = true := by decide

theorem witness_WaitEndsWithTheCommandCompleted :
    waiting.eng = .busy getLatch ∧ waiting.inputs = .wait :: [] := by decide

/-- `demo` with the accesses of a command to do, and its WAIT. -/
def issuing (i : Instr) : State := { demo with inputs := assemble demo.cfg.base i ++ .wait :: [], sched := [.host] }

theorem witness_AssembledCommandsAreIssued :
    edgeRect.wellFormed = true ∧ (issuing edgeRect).eng = .idle
      ∧ (issuing edgeRect).inputs = assemble (issuing edgeRect).cfg.base edgeRect ++ [.wait] := by
  decide

theorem witness_AssembledCommandsTakeEffect :
    edgeRect.wellFormed = true ∧ (issuing edgeRect).eng = .idle
      ∧ (issuing edgeRect).inputs = assemble (issuing edgeRect).cfg.base edgeRect ++ .wait :: [] := by
  decide

/-- Two states without a display that hold different pixels, and a step and a refusal of the first. -/
theorem witness_HiddenPixelsAreUnobservable :
    SameButHiddenPixels State.reset { State.reset with fb1 := [(3, 1)] }
      ∧ (∃ t, step State.reset = .next t)
      ∧ SameButHiddenPixels { State.reset with inputs := [.access (.read 0x40 .w32)] }
          { State.reset with inputs := [.access (.read 0x40 .w32)], fb2 := [(3, 1)] }
      ∧ step { State.reset with inputs := [.access (.read 0x40 .w32)] } = .refused .outsideWindow :=
  ⟨⟨rfl, by decide⟩, ⟨_, rfl⟩, ⟨rfl, by decide⟩, rfl⟩

theorem witness_SnapshotHoldsEveryPixelAtItsOffset : 7 < demo.W ∧ 5 < demo.H := by decide

theorem witness_ReadOutReturnsTheStoredPixel :
    Inv { demo with inputs := readOutPixel demo.cfg.base 7 5 } ∧ demo.ready = true ∧ demo.eng = .idle
      ∧ 7 < demo.W ∧ 5 < demo.H
      ∧ ({ demo with inputs := readOutPixel demo.cfg.base 7 5 } : State).inputs = readOutPixel demo.cfg.base 7 5 ++ [] :=
  ⟨⟨demo_inv.params, demo_inv.display, demo_inv.noDisplay, demo_inv.format, demo_inv.code, demo_inv.result,
    demo_inv.canonical, demo_inv.sized⟩, by decide, by decide, by decide, by decide, by decide⟩

/-- `demo` after the CMD write that its last STATUS read has yet to follow. -/
def unread : State := { demo with unconfirmed := true, inputs := [.access (.read 0x04 .w32)] }

theorem witness_ProgramsEndWithAStatusRead :
    (demo.eng = .idle ∧ ∀ x ∈ [Input.hardReset], x.byHost = false)
      ∧ (Input.wait ∈ waiting.inputs ∧ Input.wait.byHost = true)
      ∧ (∃ t, step { demo with inputs := [.hardReset] } = .next t
          ∧ ({ demo with inputs := [.hardReset] } : State).ended = true)
      ∧ (∃ t, step unread = .next t ∧ unread.unconfirmed = true ∧ t.unconfirmed = false)
      ∧ unread.commandsCounted ∧ demo.commandsCounted ∧ demo.ended = true
      ∧ State.reset.ready = false ∧ demo.ready = true ∧ 7 < demo.W ∧ 5 < demo.H :=
  ⟨⟨rfl, by decide⟩, by decide, ⟨_, rfl, rfl⟩, ⟨_, rfl, rfl, rfl⟩, fun _ => rfl, fun h => absurd h (by decide), rfl, rfl, rfl, by decide, by decide⟩

end Sys2Proof.Tests
end

/-! # Proofs about the state

The obligations of 10_state.md: what an access, a command and a reset do to the state, and what every step keeps. -/

namespace Sys2Proof

/-! ## The operands a latch can hold -/

theorem fits_pointOf (v : Word) : (pointOf v).fits = true := by
  simp [Point.fits, pointOf, fitsI16_s16]

theorem fitsU4_toNat (v : BitVec 4) : fitsU4 v.toNat = true := decide_eq_true v.isLt

/-- The decoder gives well-formed commands only (30_encoding.md R103). -/
theorem decode_wellFormed {q : Latch} {i : Instr} (h : decode q = .legal i) : i.wellFormed = true := by
  rcases decodeOp_cases (decode_legal h).2 with ⟨-, -, rfl⟩ | ⟨-, -, rfl⟩ | ⟨-, rfl⟩ | ⟨-, -, rfl⟩ | ⟨-, rfl⟩ |
    ⟨-, -, rfl⟩ | ⟨-, rfl⟩ | ⟨-, -, rfl⟩ | ⟨-, rfl⟩ | ⟨-, -, rfl⟩ | ⟨-, rfl⟩ <;>
  simp only [Instr.wellFormed, fitsU16_u16, fitsI16_s16, fits_pointOf, fitsU4_toNat, Bool.and_self]

/-- The size an INIT is decoded with fits the fields of SIZE. -/
theorem decode_init_fits {q : Latch} {w h f : Nat} {o : Orientation} (hd : decode q = .legal (.init w h o f)) :
    fitsU16 w = true ∧ fitsU16 h = true := by
  have hwf := decode_wellFormed hd
  simp only [Instr.wellFormed, Bool.and_eq_true] at hwf
  exact hwf.1

end Sys2Proof

namespace Sys2Proof.Machine

/-! ## Register accesses -/

theorem State.writeCtrl_reset {v : Word} (hv : v.getLsbD 0 = true) (s : State) : s.writeCtrl v = s.deviceReset :=
  if_pos hv

theorem State.writeCtrl_of_bit0_clear {v : Word} (hv : v.getLsbD 0 = false) (s : State) : s.writeCtrl v = s :=
  if_neg (Bool.eq_false_iff.mp hv)

theorem State.issue_idle {s : State} (h : s.eng = .idle) (v : Word) :
    s.issue v = { s with eng := .busy ⟨v, s.arg0, s.arg1, s.arg2, s.arg3⟩, unconfirmed := true } := by
  simp [State.issue, h]

theorem State.issue_busy {s : State} (h : s.busy = true) (v : Word) :
    s.issue v = { s with ovr := true, unconfirmed := true } := by
  obtain ⟨q, hq⟩ := State.busy_iff.mp h
  simp [State.issue, State.setOvr, hq]

/-- A read of a register that is exact at all times records the value and does nothing else. -/
theorem State.hostRead_exact {off : Nat} (h : (regAt off).hasFreeBits = false) (s : State) :
    s.hostRead off = { s with reads := ⟨off, s.readReg (regAt off) (Config.draw s.draws)⟩ :: s.reads } := by
  have hne : regAt off ≠ .status := fun hs => by simp [hs, Reg.hasFreeBits] at h
  simp [State.hostRead, h, hne]

theorem performAccess_read_exact {s : State} {off : Nat} (h1 : off < 0x40) (h2 : off % 4 = 0)
    (hfree : (regAt off).hasFreeBits = false) :
    performAccess (.read (s.cfg.base + off) .w32) s =
      .next { s with reads := ⟨off, s.readReg (regAt off) (Config.draw s.draws)⟩ :: s.reads } := by
  rw [performAccess_read h1 h2, State.hostRead_exact hfree]

/-- A bus read delivers what its register reads. -/
theorem delivers_of_readReg {s : State} {off : Nat} {P : Word → Prop} (h1 : off < 0x40) (h2 : off % 4 = 0)
    (h : ∀ d, P (s.readReg (regAt off) d)) : Delivers s off P :=
  ⟨_, _, performAccess_read h1 h2, rfl, h _⟩

theorem statusFields_readReg (s : State) (d : Word) : StatusFields s (s.readReg .status d) := by
  cases hb : s.busy with
  | true =>
    have hread : s.readReg .status d = s.statusWhileBusy d := by simp [State.readReg, hb]
    obtain ⟨h0, -, h2, h3, -, h8⟩ := statusBits_fields s.busy (d.getLsbD 1) s.ovr (d.extractLsb' 4 4)
    rw [hread]
    exact ⟨h0, h2, h3, h8, fun h => absurd (hb.symm.trans h) (by decide)⟩
  | false =>
    have hread : s.readReg .status d = s.statusWord := by simp [State.readReg, hb]
    obtain ⟨h0, h1, h2, h3, h4, h8⟩ := statusBits_fields s.busy s.ready s.ovr s.err
    rw [hread]
    exact ⟨h0, h2, h3, h8, fun _ => ⟨h1, h4⟩⟩

section Idle

variable {s : State} (h : s.eng = .idle) (d : Word)
include h

theorem sizeFields_readReg : SizeFields s (s.readReg .size d) := by
  have hread : s.readReg .size d = s.sizeWord := if_neg (by simp [State.not_busy_iff.mpr h])
  rw [hread]
  exact ⟨s.sizeWord_width, s.sizeWord_height⟩

theorem infoFields_readReg : InfoFields s (s.readReg .info d) := by
  have hread : s.readReg .info d = s.infoWord := if_neg (by simp [State.not_busy_iff.mpr h])
  rw [hread]
  exact ⟨s.infoWord_orient, s.infoWord_reserved_low, s.infoWord_pixfmt, s.infoWord_reserved_high⟩

theorem resultFields_readReg : ResultFields s (s.readReg .result d) := by
  have hread : s.readReg .result d = s.resultWord := if_neg (by simp [State.not_busy_iff.mpr h])
  rw [hread]
  exact ⟨s.resultWord_color, s.resultWord_valid, s.resultWord_reserved⟩

end Idle

/-! ## Who moves -/

theorem State.turn_eq_engine_iff {s : State} : s.turn = .engine ↔
    s.busy = true ∧ (s.inputs = [] ∨ s.sched = [] ∨ ∃ rest, s.sched = .engine :: rest) := by
  unfold State.turn State.contended
  cases s.busy with
  | false => simp
  | true =>
    cases s.inputs with
    | nil => simp
    | cons x rest =>
      cases s.sched with
      | nil => simp
      | cons a as => simp

/-- While a command is held the host moves only by an entry of the schedule, which the step uses up. -/
theorem State.host_turn_while_busy {s : State} (hb : s.busy = true) (hturn : s.turn = .host) :
    ∃ x rest as, s.inputs = x :: rest ∧ s.sched = .host :: as ∧ s.spendTurn.sched = as := by
  have hne : ¬ s.turn = .engine := by simp [hturn]
  rw [State.turn_eq_engine_iff] at hne
  cases hi : s.inputs with
  | nil => exact absurd ⟨hb, .inl hi⟩ hne
  | cons x rest =>
    cases hs : s.sched with
    | nil => exact absurd ⟨hb, .inr (.inl hs)⟩ hne
    | cons a as =>
      cases a with
      | engine => exact absurd ⟨hb, .inr (.inr ⟨as, hs⟩)⟩ hne
      | host => exact ⟨x, rest, as, rfl, rfl, by simp [State.spendTurn, State.contended, hb, hi, hs]⟩

/-! ## Every command completes, and its frame -/

/-- `t` is `s` with changes only where a command may make one. -/
def CommandFrame (s t : State) : Prop :=
  t = { s with
    ready := t.ready, err := t.err, width := t.width, height := t.height, orient := t.orient
    pixfmt := t.pixfmt, resColor := t.resColor, resValid := t.resValid, fb1 := t.fb1, fb2 := t.fb2 }

theorem CommandFrame.refl (s : State) : CommandFrame s s := rfl

theorem CommandFrame.cfg {s t : State} (h : CommandFrame s t) : t.cfg = s.cfg := by rw [h]

theorem CommandFrame.setErr {s t : State} (h : CommandFrame s t) (e : ErrCode) : CommandFrame s (t.setErr e) := by
  rw [h]; rfl

theorem CommandFrame.setResult (r : Option Color) (s : State) : CommandFrame s (s.setResult r) := by
  cases r <;> rfl

theorem CommandFrame.construct (w h : Nat) (o : Orientation) (s : State) : CommandFrame s (s.construct w h o) := rfl

theorem CommandFrame.storageEffect (i : Instr) (s : State) : CommandFrame s (storageEffect i s) := by
  rw [storageEffect_eq]; rfl

theorem execInit_completes (w h : Nat) (o : Orientation) (f : Nat) (s : State) :
    ∃ t, execInit w h o f s = .next t := by
  unfold execInit raise succeed
  split_ifs <;> exact ⟨_, rfl⟩

theorem readPixel_completes (L : Layer) (x y : Nat) (s : State) : ∃ t, readPixel L x y s = .next t := by
  unfold readPixel raise succeed
  split <;> exact ⟨_, rfl⟩

theorem whenReady_completes (s : State) (f : State → State) : ∃ t, whenReady s f = .next t := by
  unfold whenReady raise succeed
  split <;> exact ⟨_, rfl⟩

/-- Every command answers a next state (10_state.md R31; 60_exceptions.md R273). -/
theorem exec_completes (i : Instr) (s : State) : ∃ t, exec i s = .next t := by
  cases hinit : isInit i with
  | true =>
    obtain ⟨w, h, o, f, -, he⟩ := exec_init hinit
    rw [he]
    exact execInit_completes ..
  | false =>
    cases hget : isGet i with
    | true =>
      obtain ⟨L, x, y, he⟩ := exec_get hget
      rw [he]
      exact readPixel_completes ..
    | false =>
      rw [exec_storage hinit hget]
      exact whenReady_completes ..

theorem execInit_frame {w h f : Nat} {o : Orientation} {s t : State} (ht : execInit w h o f s = .next t) :
    CommandFrame s t := by
  rcases execInit_cases ht with ⟨-, rfl⟩ | ⟨-, -, -, rfl⟩ | ⟨-, -, -, -, rfl⟩ | ⟨-, -, -, -, rfl⟩
  · exact (CommandFrame.refl s).setErr _
  · exact (CommandFrame.refl s).setErr _
  · exact (CommandFrame.refl s).setErr _
  · exact (CommandFrame.construct w h o s).setErr _

theorem readPixel_frame {L : Layer} {x y : Nat} {s t : State} (ht : readPixel L x y s = .next t) :
    CommandFrame s t := by
  rcases readPixel_cases ht with ⟨-, rfl⟩ | ⟨-, rfl⟩ <;> exact (CommandFrame.setResult _ s).setErr _

/-- No command changes anything outside its frame (10_state.md R47). -/
theorem exec_frame {i : Instr} {s t : State} (h : exec i s = .next t) : CommandFrame s t := by
  rcases exec_cases h with ⟨_, _, _, _, -, hinit⟩ | ⟨_, _, _, -, -, hget⟩ | ⟨-, -, -, rfl⟩ | ⟨-, -, -, rfl⟩
  · exact execInit_frame hinit
  · exact readPixel_frame hget
  · exact (CommandFrame.storageEffect i s).setErr _
  · exact (CommandFrame.refl s).setErr _

/-! ## Completions -/

/-- All that a completion can be: of an illegal word, or of a command. -/
theorem complete_cases {q : Latch} {s t : State} (h : complete q s = .next t) :
    (∃ why, decode q = .illegal why ∧ t = { s.setErr .illegalCommand with eng := .idle }) ∨
      (∃ i u, decode q = .legal i ∧ exec i s = .next u ∧ t = { u with eng := .idle }) := by
  unfold complete at h
  cases hd : decode q with
  | illegal why =>
    simp only [hd, raise, retire, Host.Outcome.next.injEq] at h
    exact .inl ⟨why, rfl, h.symm⟩
  | legal i =>
    obtain ⟨u, hu⟩ := exec_completes i s
    simp only [hd, hu, retire, Host.Outcome.next.injEq] at h
    exact .inr ⟨i, u, rfl, hu, h.symm⟩

/-- Every issued word completes and leaves the engine Idle (40_display.md R130). -/
theorem complete_idle (q : Latch) (s : State) : ∃ t, complete q s = .next t ∧ t.eng = .idle := by
  unfold complete
  cases decode q with
  | illegal why => exact ⟨_, rfl, rfl⟩
  | legal i =>
    obtain ⟨u, hu⟩ := exec_completes i s
    exact ⟨{ u with eng := .idle }, by simp only [hu, retire], rfl⟩

/-! ## The display part of the state

The host's inputs leave it alone unless they reset the device; the invariant and the words SIZE and INFO speak of it
only. -/

/-- The device's state without the engine, OVR and the operand registers: the parameters, and all that a command may
write. -/
def State.displayPart (s : State) : State :=
  { s.device with eng := .idle, ovr := false, arg0 := 0#32, arg1 := 0#32, arg2 := 0#32, arg3 := 0#32 }

theorem State.displayPart_spendTurn (s : State) : s.spendTurn.displayPart = s.displayPart := by
  rw [State.spendTurn_eq]; rfl

theorem State.displayPart_writeStatus (v : Word) (s : State) : (s.writeStatus v).displayPart = s.displayPart := by
  unfold State.writeStatus
  split <;> rfl

theorem State.displayPart_issue (v : Word) (s : State) : (s.issue v).displayPart = s.displayPart := by
  unfold State.issue
  split <;> rfl

theorem State.displayPart_poll (rest : List Input) (s : State) : (poll rest s).displayPart = s.displayPart := by
  unfold poll
  dsimp only
  split <;> rfl

theorem cfg_eq_of_displayPart {s t : State} (h : t.displayPart = s.displayPart) : t.cfg = s.cfg :=
  (congrArg State.cfg h :)

theorem sizeWord_eq_of_displayPart {s t : State} (h : t.displayPart = s.displayPart) : t.sizeWord = s.sizeWord :=
  (congrArg State.sizeWord h :)

theorem infoWord_eq_of_displayPart {s t : State} (h : t.displayPart = s.displayPart) : t.infoWord = s.infoWord :=
  (congrArg State.infoWord h :)

/-- A register write is a soft reset or leaves the display part alone. -/
theorem State.writeReg_displayPart (r : Reg) (v : Word) (s : State) :
    (s.writeReg r v).displayPart = s.displayPart ∨
      (r = .ctrl ∧ v.getLsbD 0 = true ∧ s.writeReg r v = s.deviceReset) := by
  cases r with
  | ctrl =>
    cases hv : v.getLsbD 0 with
    | true => exact .inr ⟨rfl, rfl, State.writeCtrl_reset hv s⟩
    | false => exact .inl (congrArg State.displayPart (State.writeCtrl_of_bit0_clear hv s))
  | status => exact .inl (State.displayPart_writeStatus v s)
  | cmd => exact .inl (State.displayPart_issue v s)
  | size | info | arg0 | arg1 | arg2 | arg3 | result | reserved => exact .inl rfl

theorem eq_zero_of_regAt_ctrl {off : Nat} (h : regAt off = .ctrl) : off = 0 := by
  unfold regAt at h
  split at h <;> simp_all

/-- An input resets the device, or leaves the display part alone. -/
theorem performInput_displayPart {x : Input} {rest : List Input} {s t : State} (h : performInput x rest s = .next t) :
    t.displayPart = s.displayPart ∨
      (resets s.cfg x = true ∧ t = ({ s with inputs := rest } : State).deviceReset) := by
  cases x with
  | access a =>
    rcases performAccess_cases h with ⟨off, -, -, -, rfl⟩ | ⟨off, v, -, -, rfl, rfl⟩
    · exact .inl rfl
    · rcases State.writeReg_displayPart (regAt off) v { s with inputs := rest } with hd | ⟨hr, hv, he⟩
      · exact .inl hd
      · obtain rfl := eq_zero_of_regAt_ctrl hr
        exact .inr ⟨by simp [resets, hv], he⟩
  | wait => cases h; exact .inl (State.displayPart_poll rest s)
  | hardReset => cases h; exact .inr ⟨rfl, rfl⟩
  | accessInReset a => cases h

/-- All that a step can do to the display part: a completion writes it, a reset clears it, any other step leaves it
alone. -/
theorem step_displayPart_cases {s t : State} (h : step s = .next t) :
    (∃ q, s.turn = .engine ∧ s.eng = .busy q ∧ complete q s.spendTurn = .next t) ∨
      t.displayPart = s.displayPart ∨
      (∃ x rest, ∃ u : State, s.turn = .host ∧ s.inputs = x :: rest ∧ resets s.cfg x = true ∧ u.cfg = s.cfg
        ∧ t = u.deviceReset) := by
  rcases step_cases h with hengine | ⟨x, rest, hturn, hin, hp⟩ | ⟨-, -, rfl⟩
  · exact .inl hengine
  · rcases performInput_displayPart hp with hd | ⟨hr, rfl⟩
    · exact .inr (.inl (hd.trans s.displayPart_spendTurn))
    · exact .inr (.inr ⟨x, rest, { s.spendTurn with inputs := rest }, hturn, hin, s.spendTurn_cfg ▸ hr, s.spendTurn_cfg, rfl⟩)
  · exact .inr (.inl rfl)

/-! ## The invariant -/

theorem inv_displayPart {s : State} : Inv s.displayPart ↔ Inv s :=
  ⟨fun ⟨h1, h2, h3, h4, h5, h6, h7, h8⟩ => ⟨h1, h2, h3, h4, h5, h6, h7, h8⟩,
    fun ⟨h1, h2, h3, h4, h5, h6, h7, h8⟩ => ⟨h1, h2, h3, h4, h5, h6, h7, h8⟩⟩

theorem Inv.of_displayPart {s t : State} (hs : Inv s) (h : t.displayPart = s.displayPart) : Inv t :=
  inv_displayPart.mp (h ▸ inv_displayPart.mpr hs)

/-- The reset values meet the invariant under any legal parameters. -/
theorem inv_deviceReset {s : State} (h : s.cfg.wf = true) : Inv s.deviceReset where
  params := h
  display := fun hr => absurd hr Bool.false_ne_true
  noDisplay := fun _ => ⟨rfl, rfl, rfl⟩
  format := rfl
  code := Nat.zero_le 5
  result := fun _ => rfl
  canonical := fun L => by cases L <;> rfl
  sized := fun hr => absurd hr Bool.false_ne_true

theorem ErrCode.bits_le (e : ErrCode) : e.bits.toNat ≤ 5 := by cases e <;> decide

theorem Inv.setErr {s : State} (h : Inv s) (e : ErrCode) : Inv (s.setErr e) :=
  { h with code := e.bits_le }

theorem Inv.setResult {s : State} (h : Inv s) (r : Option Color) : Inv (s.setResult r) := by
  cases r with
  | none => exact { h with result := fun _ => rfl }
  | some c => exact { h with result := fun hv => absurd hv (by simp) }

theorem Inv.layersGood {s : State} (h : Inv s) (hr : s.ready = true) : s.layersGood := ⟨h.canonical, h.sized hr⟩

theorem Inv.withLayers {s : State} (h : Inv s) {m1 m2 : Memory}
    (hg : ({ s with fb1 := m1, fb2 := m2 } : State).layersGood) : Inv { s with fb1 := m1, fb2 := m2 } :=
  { h with canonical := hg.1, sized := fun _ => hg.2 }

theorem Inv.storageEffect {s : State} (h : Inv s) (hr : s.ready = true) (i : Instr) : Inv (storageEffect i s) := by
  have hg := storageEffect_layersGood (h.layersGood hr) i
  rw [storageEffect_eq] at hg ⊢
  exact h.withLayers hg

theorem State.construct_W {w : Nat} (hw : fitsU16 w = true) (h : Nat) (o : Orientation) (s : State) :
    (s.construct w h o).W = w := u16_ofU16 hw

theorem State.construct_H {h : Nat} (hh : fitsU16 h = true) (w : Nat) (o : Orientation) (s : State) :
    (s.construct w h o).H = h := u16_ofU16 hh

/-- A display that INIT's checks let through meets the invariant (10_state.md R45). -/
theorem Inv.construct {s : State} (hs : Inv s) {w h : Nat} (hw : fitsU16 w = true) (hh : fitsU16 h = true)
    (hw0 : w ≠ 0) (hh0 : h ≠ 0) (hcap : w * h ≤ s.cfg.maxPixels) (o : Orientation) : Inv (s.construct w h o) where
  params := hs.params
  display := fun _ => by
    rw [State.construct_W hw, State.construct_H hh, State.construct_cfg]
    exact ⟨by omega, by omega, hcap⟩
  noDisplay := fun hr => absurd hr (by simp)
  format := rfl
  code := hs.code
  result := hs.result
  canonical := fun L => by cases L <;> exact Memory.filled_wf (w * h) BLACK
  sized := fun _ L => by
    rw [State.construct_W hw, State.construct_H hh]
    cases L <;> exact Memory.filled_within (w * h) BLACK

theorem Inv.execInit {w h f : Nat} {o : Orientation} {s t : State} (hs : Inv s) (hw : fitsU16 w = true)
    (hh : fitsU16 h = true) (ht : execInit w h o f s = .next t) : Inv t := by
  rcases execInit_cases ht with ⟨-, rfl⟩ | ⟨-, -, -, rfl⟩ | ⟨-, -, -, -, rfl⟩ | ⟨hw0, hh0, -, hcap, rfl⟩
  · exact hs.setErr _
  · exact hs.setErr _
  · exact hs.setErr _
  · exact (hs.construct hw hh hw0 hh0 hcap o).setErr _

/-- Every well-formed command keeps the invariant. -/
theorem Inv.exec {i : Instr} {s t : State} (hs : Inv s) (hi : i.wellFormed = true) (ht : exec i s = .next t) :
    Inv t := by
  rcases exec_cases ht with ⟨w, h, o, f, rfl, hinit⟩ | ⟨L, x, y, -, -, hget⟩ | ⟨-, -, hr, rfl⟩ | ⟨-, -, -, rfl⟩
  · simp only [Instr.wellFormed, Bool.and_eq_true] at hi
    exact hs.execInit hi.1.1 hi.1.2 hinit
  · rcases readPixel_cases hget with ⟨-, rfl⟩ | ⟨-, rfl⟩ <;> exact (hs.setResult _).setErr _
  · exact (hs.storageEffect hr i).setErr _
  · exact hs.setErr _

theorem Inv.complete {q : Latch} {s t : State} (hs : Inv s) (ht : complete q s = .next t) : Inv t := by
  rcases complete_cases ht with ⟨-, -, rfl⟩ | ⟨i, u, hd, hu, rfl⟩
  · exact (hs.setErr .illegalCommand).of_displayPart rfl
  · exact (hs.exec (decode_wellFormed hd) hu).of_displayPart rfl

theorem Inv.step {s t : State} (hs : Inv s) (h : step s = .next t) : Inv t := by
  rcases step_displayPart_cases h with ⟨q, -, -, hc⟩ | hd | ⟨_, _, u, -, -, -, hcfg, rfl⟩
  · exact (hs.of_displayPart s.displayPart_spendTurn).complete hc
  · exact hs.of_displayPart hd
  · exact inv_deviceReset (hcfg ▸ hs.params)

/-- Settles O48: a completion writes what a well-formed command may, a reset leaves the reset values, and no other step
touches what the invariant speaks of. -/
theorem everyStepKeepsTheInvariant : Obligations.EveryStepKeepsTheInvariant :=
  fun _ _ hs h => hs.step h

/-! ## SIZE and INFO -/

theorem State.deviceReset_sizeWord (s : State) : s.deviceReset.sizeWord = 0 :=
  show State.reset.sizeWord = 0 by decide

theorem State.deviceReset_infoWord (s : State) : s.deviceReset.infoWord = 0 :=
  show State.reset.infoWord = 0 by decide

/-- A command leaves SIZE and INFO alone unless it is an INIT that succeeds. -/
theorem exec_sizeWord_cases {i : Instr} {s t : State} (h : exec i s = .next t) :
    (t.sizeWord = s.sizeWord ∧ t.infoWord = s.infoWord) ∨
      ∃ w hh o, i = .init w hh o 0 ∧ t = (s.construct w hh o).setErr .ok := by
  rcases exec_cases h with ⟨w, hh, o, f, rfl, hinit⟩ | ⟨L, x, y, -, -, hget⟩ | ⟨-, -, -, rfl⟩ | ⟨-, -, -, rfl⟩
  · rcases execInit_cases hinit with ⟨-, rfl⟩ | ⟨-, -, -, rfl⟩ | ⟨-, -, -, -, rfl⟩ | ⟨-, -, rfl, -, rfl⟩
    · exact .inl ⟨rfl, rfl⟩
    · exact .inl ⟨rfl, rfl⟩
    · exact .inl ⟨rfl, rfl⟩
    · exact .inr ⟨w, hh, o, rfl, rfl⟩
  · rcases readPixel_cases hget with ⟨-, rfl⟩ | ⟨-, rfl⟩ <;> exact .inl (by simp [State.sizeWord, State.infoWord])
  · rw [storageEffect_eq]
    exact .inl ⟨rfl, rfl⟩
  · exact .inl ⟨rfl, rfl⟩

/-- A completion leaves the parameters alone, and SIZE and INFO too unless it is of an INIT that succeeds. -/
theorem complete_sizeWord_cases {q : Latch} {s t : State} (h : complete q s = .next t) :
    t.cfg = s.cfg ∧ ((t.sizeWord = s.sizeWord ∧ t.infoWord = s.infoWord) ∨
      ∃ w hh o, decode q = .legal (.init w hh o 0) ∧ t.ready = true ∧ t.err = 0#4 ∧ t.W = w ∧ t.H = hh
        ∧ t.orient = o) := by
  rcases complete_cases h with ⟨-, -, rfl⟩ | ⟨i, u, hd, hu, rfl⟩
  · exact ⟨rfl, .inl ⟨rfl, rfl⟩⟩
  · refine ⟨(exec_frame hu).cfg, ?_⟩
    rcases exec_sizeWord_cases hu with hsame | ⟨w, hh, o, rfl, rfl⟩
    · exact .inl hsame
    · obtain ⟨hw, hh'⟩ := decode_init_fits hd
      exact .inr ⟨w, hh, o, hd, rfl, rfl, State.construct_W hw hh o s, State.construct_H hh' w o s, rfl⟩

/-- Settles O50: of the steps that touch the display part only a successful INIT and a reset write SIZE or INFO. -/
theorem sizeAndInfoChangeOnlyAtInitOrReset : Obligations.SizeAndInfoChangeOnlyAtInitOrReset := by
  intro s t h
  rcases step_displayPart_cases h with ⟨q, hturn, heng, hc⟩ | hd | ⟨x, rest, u, hturn, hin, hr, hcfg, rfl⟩
  · have hs := s.displayPart_spendTurn
    obtain ⟨hcfg, hsame | ⟨w, hh, o, hinit⟩⟩ := complete_sizeWord_cases hc
    · exact ⟨hcfg.trans (cfg_eq_of_displayPart hs), .inl
        ⟨hsame.1.trans (sizeWord_eq_of_displayPart hs), hsame.2.trans (infoWord_eq_of_displayPart hs)⟩⟩
    · exact ⟨hcfg.trans (cfg_eq_of_displayPart hs), .inr (.inl ⟨q, w, hh, o, hturn, heng, hinit⟩)⟩
  · exact ⟨cfg_eq_of_displayPart hd, .inl ⟨sizeWord_eq_of_displayPart hd, infoWord_eq_of_displayPart hd⟩⟩
  · exact ⟨hcfg, .inr (.inr ⟨x, rest, hturn, hin, hr, rfl, u.deviceReset_sizeWord, u.deviceReset_infoWord⟩)⟩

/-- Settles O12: each access by its register, the soft and the hardware reset by `State.deviceReset`. -/
theorem resetGivesEveryRegisterItsValue : Obligations.ResetGivesEveryRegisterItsValue := by
  have hctrl (s : State) (v : Word) : performAccess (.write s.cfg.base .w32 v) s = .next (s.writeCtrl v) :=
    performAccess_write (off := 0) v (by decide) rfl
  refine ⟨fun s v hv => ⟨[], [], ?_⟩, fun s v hv => ?_, fun s => ?_, fun s rest => ⟨[], [], rfl⟩, fun _ _ _ => rfl⟩
  · rw [hctrl, State.writeCtrl_reset hv]
    rfl
  · rw [hctrl, State.writeCtrl_of_bit0_clear hv]
  · exact performAccess_read_exact (off := 0) (by decide) rfl rfl

/-- Settles O37: every command has one of three shapes, each of which completes within the frame. -/
theorem everyCommandCompletesInItsFrame : Obligations.EveryCommandCompletesInItsFrame := by
  intro i s
  obtain ⟨t, ht⟩ := exec_completes i s
  exact ⟨t, ht, exec_frame ht⟩

/-! ## A held command completes -/

/-- Where a supported access lands in the window. -/
theorem supported_access {s : State} {ad : Nat} {w : Width} (h : supported s.cfg (.access (.read ad w)) = true) :
    ∃ off, w = .w32 ∧ ad = s.cfg.base + off ∧ off < 0x40 ∧ off % 4 = 0 := by
  simp only [supported, Bool.and_eq_true, decide_eq_true_eq] at h
  obtain ⟨⟨⟨hlow, hhigh⟩, hw⟩, haligned⟩ := h
  exact ⟨ad - s.cfg.base, hw, by omega, by omega, haligned⟩

/-- A supported input is not refused. -/
theorem performInput_supported {x : Input} {s : State} (h : supported s.cfg x = true) (rest : List Input) :
    ∃ t, performInput x rest s = .next t := by
  cases x with
  | access a =>
    cases a with
    | read ad w =>
      obtain ⟨off, rfl, rfl, hoff, haligned⟩ := supported_access h
      exact ⟨_, performAccess_read (s := { s with inputs := rest }) hoff haligned⟩
    | write ad w v =>
      obtain ⟨off, rfl, rfl, hoff, haligned⟩ := supported_access h
      exact ⟨_, performAccess_write (s := { s with inputs := rest }) v hoff haligned⟩
  | wait => exact ⟨_, rfl⟩
  | hardReset => exact ⟨_, rfl⟩
  | accessInReset a => cases h

/-- `t` has the parameters of `s`, and the same inputs and schedule to come. -/
def SamePlan (s t : State) : Prop := t.cfg = s.cfg ∧ t.sched = s.sched ∧ t.inputs = s.inputs

theorem State.writeReg_samePlan (r : Reg) (v : Word) (s : State) : SamePlan s (s.writeReg r v) := by
  cases r with
  | ctrl =>
    change SamePlan s (if v.getLsbD 0 then s.deviceReset else s)
    split <;> exact ⟨rfl, rfl, rfl⟩
  | status =>
    change SamePlan s (if v.getLsbD 2 then { s with ovr := false } else s)
    split <;> exact ⟨rfl, rfl, rfl⟩
  | cmd =>
    change SamePlan s (s.issue v)
    unfold State.issue
    split <;> exact ⟨rfl, rfl, rfl⟩
  | size | info | arg0 | arg1 | arg2 | arg3 | result | reserved => exact ⟨rfl, rfl, rfl⟩

/-- An input leaves the plan as it was, itself used up unless it is a WAIT that polls again. -/
theorem performInput_samePlan {x : Input} {rest : List Input} {s t : State} (h : performInput x rest s = .next t) :
    SamePlan { s with inputs := rest } t ∨ SamePlan s t := by
  cases x with
  | access a =>
    rcases performAccess_cases h with ⟨off, -, -, -, rfl⟩ | ⟨off, v, -, -, -, rfl⟩
    · exact .inl ⟨rfl, rfl, rfl⟩
    · exact .inl (State.writeReg_samePlan (regAt off) v _)
  | wait =>
    cases h
    unfold poll
    dsimp only
    split
    · exact .inr ⟨rfl, rfl, rfl⟩
    · exact .inl ⟨rfl, rfl, rfl⟩
  | hardReset => cases h; exact .inl ⟨rfl, rfl, rfl⟩
  | accessInReset a => cases h

/-- A host step taken while a command is held, its input supported: it goes on, uses up an entry of the schedule, and
leaves supported inputs only. -/
theorem host_step_while_busy {s : State} (hb : s.busy = true) (hturn : s.turn = .host)
    (hsup : ∀ x ∈ s.inputs, supported s.cfg x = true) :
    ∃ t, step s = .next t ∧ s.sched = .host :: t.sched ∧ ∀ x ∈ t.inputs, supported t.cfg x = true := by
  obtain ⟨x, rest, as, hin, hsched, hspend⟩ := State.host_turn_while_busy hb hturn
  have hx : supported s.spendTurn.cfg x = true := by simpa using hsup x (by simp [hin])
  obtain ⟨t, ht⟩ := performInput_supported hx rest
  have hplan : t.cfg = s.cfg ∧ t.sched = as ∧ t.inputs ⊆ s.inputs := by
    rcases performInput_samePlan ht with ⟨hcfg, hs, hi⟩ | ⟨hcfg, hs, hi⟩
    · exact ⟨hcfg.trans s.spendTurn_cfg, hs.trans hspend, by rw [hi, hin]; exact List.subset_cons_self x rest⟩
    · exact ⟨hcfg.trans s.spendTurn_cfg, hs.trans hspend, by rw [hi, s.spendTurn_inputs]; exact List.Subset.refl _⟩
  obtain ⟨hcfg, hs, hsub⟩ := hplan
  exact ⟨t, (step_host hturn hin).trans ht, hs ▸ hsched, fun y hy => hcfg ▸ hsup y (hsub hy)⟩

/-- A held command is completed by the engine's turn, if it comes now. -/
theorem engine_step_idle {s : State} (hturn : s.turn = .engine) : ∃ t, step s = .next t ∧ t.eng = .idle := by
  obtain ⟨q, hq⟩ := State.busy_iff.mp (State.turn_eq_engine_iff.mp hturn).1
  rw [step_engine hturn hq]
  exact complete_idle ..

theorem core_run_one {s t : State} (h : step s = .next t) : Sys2Proof.core.run 1 s = .next t := core_run_succ h 0

/-- A held command leaves the engine within one step more than the schedule is long, by induction on the schedule. -/
theorem exists_run_idle {s : State} (hb : s.busy = true) (hsup : ∀ x ∈ s.inputs, supported s.cfg x = true) :
    ∃ n t, n ≤ s.sched.length + 1 ∧ Sys2Proof.core.run n s = .next t ∧ t.eng = .idle := by
  induction hn : s.sched.length generalizing s with
  | zero =>
    have hturn : s.turn = .engine := State.turn_eq_engine_iff.mpr ⟨hb, .inr (.inl (List.length_eq_zero_iff.mp hn))⟩
    obtain ⟨t, ht, hidle⟩ := engine_step_idle hturn
    exact ⟨1, t, le_rfl, core_run_one ht, hidle⟩
  | succ k ih =>
    cases hturn : s.turn with
    | engine =>
      obtain ⟨t, ht, hidle⟩ := engine_step_idle hturn
      exact ⟨1, t, by omega, core_run_one ht, hidle⟩
    | host =>
      obtain ⟨t, ht, hsched, hsup'⟩ := host_step_while_busy hb hturn hsup
      cases hb' : t.busy with
      | false => exact ⟨1, t, by omega, core_run_one ht, State.not_busy_iff.mp hb'⟩
      | true =>
        have hk : t.sched.length = k := by simpa [hsched] using hn
        obtain ⟨n, u, hle, hrun, hidle⟩ := ih hb' hsup' hk
        exact ⟨n + 1, u, by omega, (core_run_succ ht n).trans hrun, hidle⟩

/-- Settles O51: the engine's turn completes the command, and a turn of the host before it uses up an entry of the
schedule. -/
theorem heldCommandsComplete : Obligations.HeldCommandsComplete :=
  fun _ hb hsup => exists_run_idle hb hsup

/-! ## Registers -/

/-- Settles O6: STATUS is `statusBits` of its fields, two of them free while BUSY = 1. -/
theorem statusReadsItsFields : Obligations.StatusReadsItsFields :=
  fun s => ⟨statusFields_readReg s, delivers_of_readReg (by decide) rfl (statusFields_readReg s)⟩

/-- Settles O7: while Idle the three registers read the words of their fields. -/
theorem sizeInfoResultReadTheirFields : Obligations.SizeInfoResultReadTheirFields :=
  fun _ h =>
    ⟨fun d => ⟨sizeFields_readReg h d, infoFields_readReg h d, resultFields_readReg h d⟩,
      delivers_of_readReg (by decide) rfl (sizeFields_readReg h),
      delivers_of_readReg (by decide) rfl (infoFields_readReg h),
      delivers_of_readReg (by decide) rfl (resultFields_readReg h)⟩

/-- Settles O8: an ARG register is a field of the state, exact at all times. -/
theorem argRegistersStoreAndReadBack : Obligations.ArgRegistersStoreAndReadBack :=
  fun _ v =>
    ⟨⟨performAccess_write v (by decide) rfl, performAccess_write v (by decide) rfl,
        performAccess_write v (by decide) rfl, performAccess_write v (by decide) rfl⟩,
      ⟨performAccess_read_exact (by decide) rfl rfl, performAccess_read_exact (by decide) rfl rfl,
        performAccess_read_exact (by decide) rfl rfl, performAccess_read_exact (by decide) rfl rfl⟩⟩

/-- Settles O9: a CMD write is `State.issue`, by the engine's state. -/
theorem commandWriteIssuesOrIsDropped : Obligations.CommandWriteIssuesOrIsDropped := by
  have hcmd (s : State) (v : Word) : performAccess (.write (s.cfg.base + 0x10) .w32 v) s = .next (s.issue v) :=
    performAccess_write v (by decide) rfl
  refine ⟨fun s v h => ⟨true, ?_⟩, fun s v h => ⟨true, ?_⟩, fun s => performAccess_read_exact (by decide) rfl rfl⟩
  · rw [hcmd, State.issue_idle h]
  · rw [hcmd, State.issue_busy h]

/-- Settles O10: a STATUS write is `State.writeStatus`. -/
theorem statusWriteClearsOnlyOverrun : Obligations.StatusWriteClearsOnlyOverrun :=
  fun _ v => performAccess_write v (by decide) rfl

/-- Settles O13: the values of 10_state.md R48, field by field. -/
theorem resetStateHasTheSpecsValues : Obligations.ResetStateHasTheSpecsValues := by
  unfold Obligations.ResetStateHasTheSpecsValues
  decide

/-- Settles O47, by the engine, the inputs left and the schedule. -/
theorem turnIsTheEnginesOrTheHosts : Obligations.TurnIsTheEnginesOrTheHosts :=
  fun _ => State.turn_eq_engine_iff

/-- Settles O49: the reset state is its own device reset, and the default parameters are legal. -/
theorem resetMeetsTheInvariant : Obligations.ResetMeetsTheInvariant :=
  inv_deviceReset (s := State.reset) (by decide)

end Sys2Proof.Machine

/-! # Proofs about the memory

The obligations of 20_memory.md: the accesses of the window, the storage after a command issued twice, and what a
command and its WAIT lead to. -/

namespace Sys2Proof

/-! ## The words an assembled command is decoded from -/

theorem toNat_ofNat_of_fitsU4 {n : Nat} (h : fitsU4 n = true) : (BitVec.ofNat 4 n).toNat = n :=
  (BitVec.toNat_ofNat ..).trans (Nat.mod_eq_of_lt (of_decide_eq_true h))

theorem layerOf_getElem_layerBit (l : Layer) : layerOf (layerBit l)[0] = l := by cases l <;> rfl

/-- A latch decodes to a well-formed command when it holds the command word and those operand words that the command
reads, whatever the others hold (30_encoding.md R102 to R104, R106). -/
theorem decode_of_operands {i : Instr} (hi : i.wellFormed = true) {q : Latch} (hcw : q.cw = (encode i).cw)
    (h0 : (listedBits i).a0 ≠ 0 → q.a0 = (encode i).a0) (h1 : (listedBits i).a1 ≠ 0 → q.a1 = (encode i).a1)
    (h2 : (listedBits i).a2 ≠ 0 → q.a2 = (encode i).a2) (h3 : (listedBits i).a3 ≠ 0 → q.a3 = (encode i).a3) :
    decode q = .legal i := by
  obtain ⟨cw, a0, a1, a2, a3⟩ := q
  obtain rfl : cw = (encode i).cw := hcw
  cases i with
  | init w h o f =>
    simp only [Instr.wellFormed, Bool.and_eq_true] at hi
    obtain ⟨⟨hw, hh⟩, hf⟩ := hi
    obtain rfl : a0 = pack (ofU16 w) (ofU16 h) := h0 (by simp [listedBits])
    obtain rfl : a1 = initWord o f := h1 (by simp [listedBits])
    simp [encode, decode_commandWord, decodeOp, plain, u16_ofU16 hw, u16_ofU16 hh, initWord_orient, initWord_format,
      toNat_ofNat_of_fitsU4 hf]
  | clear c =>
    obtain rfl : a0 = colorWord c := h0 (by simp [listedBits])
    simp [encode, decode_commandWord, decodeOp, plain, colorWord]
  | clearLayer l c =>
    obtain rfl : a0 = colorWord c := h0 (by simp [listedBits])
    simp [encode, decode_commandWord, decodeOp, layerOf_getElem_layerBit, colorWord]
  | getPixel x y =>
    simp only [Instr.wellFormed, Bool.and_eq_true] at hi
    obtain rfl : a0 = pack (ofU16 x) (ofU16 y) := h0 (by simp [listedBits])
    simp [encode, decode_commandWord, decodeOp, plain, u16_ofU16 hi.1, u16_ofU16 hi.2]
  | getPixelLayer l x y =>
    simp only [Instr.wellFormed, Bool.and_eq_true] at hi
    obtain rfl : a0 = pack (ofU16 x) (ofU16 y) := h0 (by simp [listedBits])
    simp [encode, decode_commandWord, decodeOp, layerOf_getElem_layerBit, u16_ofU16 hi.1, u16_ofU16 hi.2]
  | setPixel x y c =>
    simp only [Instr.wellFormed, Bool.and_eq_true] at hi
    obtain rfl : a0 = pack (ofU16 x) (ofU16 y) := h0 (by simp [listedBits])
    obtain rfl : a1 = colorWord c := h1 (by simp [listedBits])
    simp [encode, decode_commandWord, decodeOp, plain, colorWord, u16_ofU16 hi.1, u16_ofU16 hi.2]
  | setPixelLayer l x y c =>
    simp only [Instr.wellFormed, Bool.and_eq_true] at hi
    obtain rfl : a0 = pack (ofU16 x) (ofU16 y) := h0 (by simp [listedBits])
    obtain rfl : a1 = colorWord c := h1 (by simp [listedBits])
    simp [encode, decode_commandWord, decodeOp, layerOf_getElem_layerBit, colorWord, u16_ofU16 hi.1, u16_ofU16 hi.2]
  | drawRect x y w h t c =>
    simp only [Instr.wellFormed, Bool.and_eq_true] at hi
    obtain ⟨⟨⟨⟨hx, hy⟩, hw⟩, hh⟩, ht⟩ := hi
    obtain rfl : a0 = pack (ofS16 x) (ofS16 y) := h0 (by simp [listedBits])
    obtain rfl : a1 = pack (ofU16 w) (ofU16 h) := h1 (by simp [listedBits])
    obtain rfl : a3 = pack c (ofU16 t) := h3 (by simp [listedBits])
    simp [encode, decode_commandWord, decodeOp, plain, s16_ofS16 hx, s16_ofS16 hy, u16_ofU16 hw, u16_ofU16 hh,
      u16_ofU16 ht]
  | drawRectLayer l x y w h t c =>
    simp only [Instr.wellFormed, Bool.and_eq_true] at hi
    obtain ⟨⟨⟨⟨hx, hy⟩, hw⟩, hh⟩, ht⟩ := hi
    obtain rfl : a0 = pack (ofS16 x) (ofS16 y) := h0 (by simp [listedBits])
    obtain rfl : a1 = pack (ofU16 w) (ofU16 h) := h1 (by simp [listedBits])
    obtain rfl : a3 = pack c (ofU16 t) := h3 (by simp [listedBits])
    simp [encode, decode_commandWord, decodeOp, layerOf_getElem_layerBit, s16_ofS16 hx, s16_ofS16 hy, u16_ofU16 hw,
      u16_ofU16 hh, u16_ofU16 ht]
  | drawTri a b c t col =>
    simp only [Instr.wellFormed, Bool.and_eq_true] at hi
    obtain ⟨⟨⟨ha, hb⟩, hc⟩, ht⟩ := hi
    obtain rfl : a0 = pointWord a := h0 (by simp [listedBits])
    obtain rfl : a1 = pointWord b := h1 (by simp [listedBits])
    obtain rfl : a2 = pointWord c := h2 (by simp [listedBits])
    obtain rfl : a3 = pack col (ofU16 t) := h3 (by simp [listedBits])
    simp [encode, decode_commandWord, decodeOp, plain, pointOf_pointWord ha, pointOf_pointWord hb,
      pointOf_pointWord hc, u16_ofU16 ht]
  | drawTriLayer l a b c t col =>
    simp only [Instr.wellFormed, Bool.and_eq_true] at hi
    obtain ⟨⟨⟨ha, hb⟩, hc⟩, ht⟩ := hi
    obtain rfl : a0 = pointWord a := h0 (by simp [listedBits])
    obtain rfl : a1 = pointWord b := h1 (by simp [listedBits])
    obtain rfl : a2 = pointWord c := h2 (by simp [listedBits])
    obtain rfl : a3 = pack col (ofU16 t) := h3 (by simp [listedBits])
    simp [encode, decode_commandWord, decodeOp, layerOf_getElem_layerBit, pointOf_pointWord ha, pointOf_pointWord hb,
      pointOf_pointWord hc, u16_ofU16 ht]

end Sys2Proof

namespace Sys2Proof.Machine

/-! ## The window -/

theorem regAt_of_reserved {off : Nat} (h : 0x28 ≤ off) : regAt off = .reserved := by
  obtain ⟨k, rfl⟩ := Nat.exists_eq_add_of_le' h
  rfl

theorem locate_narrow {c : Config} {off : Nat} {w : Width} (hoff : off < 0x40) (hw : w ≠ .w32) :
    locate c (c.base + off) w = .refused .unsupportedWidth := by
  rw [locate, if_neg (by omega), if_pos hw]

theorem locate_misaligned {c : Config} {off : Nat} (hoff : off < 0x40) (halign : off % 4 ≠ 0) :
    locate c (c.base + off) .w32 = .refused .misaligned := by
  rw [locate, if_neg (by omega), if_neg (by simp), if_pos (by omega)]

theorem performAccess_refused {s : State} {a : Nat} {w : Width} {why : Refusal} (h : locate s.cfg a w = .refused why)
    (v : Word) : performAccess (.read a w) s = .refused why ∧ performAccess (.write a w v) s = .refused why := by
  simp only [performAccess, h, and_self]

/-- Settles O14: each access by the register it lands on, or by the check of `locate` that refuses it. -/
theorem windowAccessesBehaveAsTabled : Obligations.WindowAccessesBehaveAsTabled := by
  refine ⟨fun s off hlow hoff halign => ?_, ?_, ?_,
    fun s off w v hoff hw => performAccess_refused (locate_narrow hoff hw) v,
    fun s off v hoff halign => performAccess_refused (locate_misaligned hoff halign) v⟩
  · have hreg := regAt_of_reserved hlow
    refine ⟨?_, fun v => ?_⟩
    · rw [performAccess_read_exact hoff halign (by rw [hreg]; rfl), hreg]
      rfl
    · rw [performAccess_write v hoff halign, hreg]
      rfl
  · rintro s v off (rfl | rfl | rfl) <;> exact performAccess_write v (by decide) rfl
  · rintro s off (rfl | rfl) <;> exact performAccess_read_exact (by decide) rfl rfl

theorem supported_of_offset {c : Config} {off : Nat} (hoff : off < 0x40) (halign : off % 4 = 0) (v : Word) :
    supported c (.access (.read (c.base + off) .w32)) = true ∧
      supported c (.access (.write (c.base + off) .w32 v)) = true := by
  simp [supported, hoff, halign]

/-- Settles O15: an access that is not refused is one of the window's, and a supported input is not refused. -/
theorem exactlyTheSupportedInputsRun : Obligations.ExactlyTheSupportedInputsRun := by
  refine fun s x rest => ⟨fun ⟨t, h⟩ => ?_, fun h => performInput_supported h rest⟩
  cases x with
  | access a =>
    rcases performAccess_cases h with ⟨off, hoff, halign, rfl, -⟩ | ⟨off, v, hoff, halign, rfl, -⟩
    · exact (supported_of_offset hoff halign 0).1
    · exact (supported_of_offset hoff halign v).2
  | wait => rfl
  | hardReset => rfl
  | accessInReset a => cases h

/-- Settles O16: an access at a register's offset is `State.hostRead`, which writes the host's side only. -/
theorem readsLeaveTheDeviceAlone : Obligations.ReadsLeaveTheDeviceAlone :=
  fun s off hoff halign => ⟨s.hostRead off, _, performAccess_read hoff halign, rfl, rfl, rfl, rfl⟩

/-! ## What a command does not look at -/

/-- `g` changes nothing that a storage effect reads or writes. -/
structure LeavesStorage (g : State → State) : Prop where
  cfg (s : State) : (g s).cfg = s.cfg
  W (s : State) : (g s).W = s.W
  H (s : State) : (g s).H = s.H
  fb (s : State) (L : Layer) : (g s).fb L = s.fb L
  setFb (L : Layer) (m : Memory) (s : State) : (g s).setFb L m = g (s.setFb L m)

theorem LeavesStorage.storageEffect {g : State → State} (hg : LeavesStorage g) (i : Instr) (s : State) :
    storageEffect i (g s) = g (storageEffect i s) := by
  cases i with
  | init | getPixel | getPixelLayer => rfl
  | clear | clearLayer =>
    simp only [Machine.storageEffect, State.clearBoth, State.clearLayer, hg.W, hg.H, hg.setFb]
  | setPixel | setPixelLayer =>
    simp only [Machine.storageEffect, State.put_eq_paint, State.paint, hg.W, hg.H, hg.fb, hg.setFb]
  | drawRect | drawRectLayer => simp only [Machine.storageEffect, State.drawRect, hg.W, hg.H, hg.fb, hg.setFb]
  | drawTri | drawTriLayer => simp only [Machine.storageEffect, State.drawTri, hg.cfg, hg.W, hg.H, hg.fb, hg.setFb]

theorem LeavesStorage.setErr (e : ErrCode) : LeavesStorage (State.setErr e) where
  cfg _ := rfl
  W _ := rfl
  H _ := rfl
  fb := State.setErr_fb e
  setFb L _ _ := by cases L <;> rfl

/-- `eng <- e`. -/
def State.setEng (e : Engine) (s : State) : State := { s with eng := e }

theorem LeavesStorage.setEng (e : Engine) : LeavesStorage (State.setEng e) where
  cfg _ := rfl
  W _ := rfl
  H _ := rfl
  fb _ L := by cases L <;> rfl
  setFb L _ _ := by cases L <;> rfl

/-! ## A command issued twice -/

/-- Writing one colour at a list of indices twice is writing it once. -/
theorem Memory.foldl_write_twice {m : Memory} (hm : Memory.wf m = true) (c : Color) (is : List Nat) :
    is.foldl (fun m i => Memory.write m i c) (is.foldl (fun m i => Memory.write m i c) m) =
      is.foldl (fun m i => Memory.write m i c) m := by
  obtain ⟨hwf, hread⟩ := Memory.foldl_write hm c is
  obtain ⟨hwf', hread'⟩ := Memory.foldl_write hwf c is
  refine Memory.eq_of_read hwf' hwf fun j => ?_
  rw [hread', hread]
  split <;> rfl

theorem State.setFb_setFb (L : Layer) (m m' : Memory) (s : State) : (s.setFb L m).setFb L m' = s.setFb L m' := by
  cases L <;> rfl

theorem State.paint_W (L : Layer) (is : List Nat) (c : Color) (s : State) : (s.paint L is c).W = s.W := State.setFb_W ..

theorem State.paint_H (L : Layer) (is : List Nat) (c : Color) (s : State) : (s.paint L is c).H = s.H := State.setFb_H ..

theorem State.paint_cfg (L : Layer) (is : List Nat) (c : Color) (s : State) : (s.paint L is c).cfg = s.cfg :=
  State.setFb_cfg ..

theorem State.paint_twice {s : State} (h : ∀ L, Memory.wf (s.fb L) = true) (L : Layer) (is : List Nat) (c : Color) :
    (s.paint L is c).paint L is c = s.paint L is c := by
  rw [State.paint, State.paint, State.setFb_fb_same, State.setFb_setFb, Memory.foldl_write_twice (h L)]

/-- A storage effect made twice is that effect made once. -/
theorem storageEffect_twice {s : State} (h : ∀ L, Memory.wf (s.fb L) = true) (i : Instr) :
    storageEffect i (storageEffect i s) = storageEffect i s := by
  cases i with
  | init | getPixel | getPixelLayer | clear => rfl
  | clearLayer L c => cases L <;> rfl
  | setPixel | setPixelLayer =>
    simp only [storageEffect, State.put_eq_paint, State.paint_W, State.paint_H, State.paint_twice h]
  | drawRect | drawRectLayer =>
    simp only [storageEffect, State.drawRect_eq_paint, State.paint_W, State.paint_H, State.paint_twice h]
  | drawTri | drawTriLayer =>
    simp only [storageEffect, State.drawTri_eq_paint, State.paint_W, State.paint_H, State.paint_cfg,
      State.paint_twice h]

/-- An INIT made twice succeeds twice or raises the same code twice. -/
theorem execInit_twice {w h f : Nat} {o : Orientation} {s t u : State} (ht : execInit w h o f s = .next t)
    (hu : execInit w h o f t = .next u) : u.fb1 = t.fb1 ∧ u.fb2 = t.fb2 := by
  rcases execInit_cases hu with ⟨-, rfl⟩ | ⟨-, -, -, rfl⟩ | ⟨-, -, -, -, rfl⟩ | ⟨hw, hh, hf, hcap, rfl⟩
  · exact ⟨rfl, rfl⟩
  · exact ⟨rfl, rfl⟩
  · exact ⟨rfl, rfl⟩
  · rw [(execInit_frame ht).cfg] at hcap
    rcases execInit_cases ht with ⟨hdim, -⟩ | ⟨-, -, hfmt, -⟩ | ⟨-, -, -, hover, -⟩ | ⟨-, -, -, -, rfl⟩
    · omega
    · exact absurd hf hfmt
    · omega
    · exact ⟨rfl, rfl⟩

/-- Settles O43: an INIT fills both layers afresh or not at all, a GET paints nothing, and a storage effect made
twice is made once. -/
theorem commandsAreIdempotentOnStorage : Obligations.CommandsAreIdempotentOnStorage := by
  intro i s t u _ hs ht hu
  rcases exec_cases hu with ⟨w, h, o, f, rfl, hinit⟩ | ⟨L, x, y, -, -, hget⟩ | ⟨hi, hg, hready, rfl⟩ | ⟨-, -, -, rfl⟩
  · exact execInit_twice ht hinit
  · rcases readPixel_cases hget with ⟨-, rfl⟩ | ⟨-, rfl⟩ <;> simp
  · rw [exec_storage hi hg] at ht
    rcases whenReady_cases ht with ⟨-, rfl⟩ | ⟨hnot, rfl⟩
    · rw [(LeavesStorage.setErr .ok).storageEffect, storageEffect_twice hs.canonical]
      exact ⟨rfl, rfl⟩
    · exact absurd hready (by simp [hnot])
  · exact ⟨rfl, rfl⟩

/-! ## The device and the host's side -/

/-- A state is its device's part with its own host's side. -/
theorem State.eq_onHost_of_device {s s' : State} (h : s'.device = s.device) :
    s' = s.onHost s'.inputs s'.sched s'.draws s'.reads s'.unconfirmed :=
  show s'.device.onHost .. = s.device.onHost .. from h ▸ rfl

theorem State.eng_eq_of_device {s s' : State} (h : s'.device = s.device) : s'.eng = s.eng := (congrArg State.eng h :)

theorem State.device_spendTurn (s : State) : s.spendTurn.device = s.device := by
  rw [State.spendTurn_eq]; rfl

/-- What a completion does to the device depends on the device only. -/
theorem complete_device {q : Latch} {s s' u : State} (hd : s'.device = s.device) (hc : complete q s = .next u) :
    ∃ u', complete q s' = .next u' ∧ u'.device = u.device ∧ u'.inputs = s'.inputs :=
  ⟨_, (congrArg (complete q) (State.eq_onHost_of_device hd)).trans (complete_onHost hc ..), rfl, rfl⟩

/-! ## WAIT -/

theorem poll_busy {s : State} (h : s.busy = true) (rest : List Input) : poll rest s = s.hostRead 0x04 := if_pos h

theorem poll_idle {s : State} (h : s.busy = false) (rest : List Input) :
    poll rest s = { s.hostRead 0x04 with inputs := rest } := if_neg (by simp [h])

/-- `t` is left by a WAIT that has ended on the device `d`, with `rest` still to come. -/
structure WaitEnded (d : State) (rest : List Input) (t : State) : Prop where
  device : t.device = d
  inputs : t.inputs = rest
  confirmed : t.unconfirmed = false

theorem WaitEnded.ended {d t : State} {rest : List Input} (h : WaitEnded d rest t)
    (hrest : ∀ x ∈ rest, x.byHost = false) : t.ended = true :=
  State.ended_iff.mpr ⟨h.inputs ▸ hrest, h.confirmed⟩

/-- A WAIT ends with the first poll that finds the engine Idle. -/
theorem step_wait_idle {s : State} {rest : List Input} (he : s.eng = .idle) (hin : s.inputs = .wait :: rest) :
    ∃ t, step s = .next t ∧ WaitEnded s.device rest t := by
  obtain ⟨hturn, hspend⟩ := State.turn_idle he
  have hbusy := State.not_busy_iff.mpr he
  refine ⟨poll rest s, by rw [step_host hturn hin, hspend]; rfl, ?_⟩
  rw [poll_idle hbusy]
  exact ⟨rfl, rfl, by simp [hbusy, regAt]⟩

/-- A poll while a command is held is a read of STATUS, the WAIT still to come and an entry of the schedule used up. -/
theorem step_wait_busy {s : State} {rest : List Input} (hb : s.busy = true) (hturn : s.turn = .host)
    (hin : s.inputs = .wait :: rest) :
    ∃ t, step s = .next t ∧ t.device = s.device ∧ t.inputs = s.inputs ∧ s.sched = .host :: t.sched := by
  obtain ⟨_, _, as, -, hsched, hspend⟩ := State.host_turn_while_busy hb hturn
  have hb' : s.spendTurn.busy = true := by simpa [State.busy] using hb
  refine ⟨s.spendTurn.hostRead 0x04, ?_, s.device_spendTurn, s.spendTurn_inputs, hsched.trans (hspend ▸ rfl)⟩
  rw [step_host hturn hin, ← poll_busy hb' rest]
  rfl

/-- The completion of the held command and then the WAIT that waits for it. -/
theorem run_wait_engine {s s0 u : State} {q : Latch} {rest : List Input} (heng : s0.eng = .busy q)
    (hc : complete q s0 = .next u) (hd : s.device = s0.device) (hin : s.inputs = .wait :: rest)
    (hturn : s.turn = .engine) : ∃ t, Sys2Proof.core.run 2 s = .next t ∧ WaitEnded u.device rest t := by
  obtain ⟨v, hv, hvd, hvin⟩ := complete_device (s.device_spendTurn.trans hd) hc
  have hidle : v.eng = .idle := by
    obtain ⟨u', hu', hidle⟩ := complete_idle q s.spendTurn
    cases hv.symm.trans hu'
    exact hidle
  obtain ⟨t, ht, hend⟩ := step_wait_idle hidle (hvin.trans (s.spendTurn_inputs.trans hin))
  have hstep : step s = .next v := (step_engine hturn ((State.eng_eq_of_device hd).trans heng)).trans hv
  exact ⟨t, (core_run_succ hstep 1).trans (core_run_one ht), hvd ▸ hend⟩

/-- A WAIT for a held command ends under every schedule, by induction on the schedule. -/
theorem run_wait {s s0 u : State} {q : Latch} {rest : List Input} (heng : s0.eng = .busy q)
    (hc : complete q s0 = .next u) (hd : s.device = s0.device) (hin : s.inputs = .wait :: rest) :
    ∃ n t, n ≤ s.sched.length + 2 ∧ Sys2Proof.core.run n s = .next t ∧ WaitEnded u.device rest t := by
  have hb : s.busy = true := State.busy_iff.mpr ⟨q, (State.eng_eq_of_device hd).trans heng⟩
  induction hn : s.sched.length generalizing s with
  | zero =>
    have hturn : s.turn = .engine := State.turn_eq_engine_iff.mpr ⟨hb, .inr (.inl (List.length_eq_zero_iff.mp hn))⟩
    obtain ⟨t, hrun, hend⟩ := run_wait_engine heng hc hd hin hturn
    exact ⟨2, t, le_rfl, hrun, hend⟩
  | succ k ih =>
    cases hturn : s.turn with
    | engine =>
      obtain ⟨t, hrun, hend⟩ := run_wait_engine heng hc hd hin hturn
      exact ⟨2, t, by omega, hrun, hend⟩
    | host =>
      obtain ⟨v, hv, hvd, hvin, hsched⟩ := step_wait_busy hb hturn hin
      have hvd' := hvd.trans hd
      have hvb : v.busy = true := State.busy_iff.mpr ⟨q, (State.eng_eq_of_device hvd').trans heng⟩
      obtain ⟨n, t, hle, hrun, hend⟩ := ih hvd' (hvin.trans hin) hvb (by simpa [hsched] using hn)
      exact ⟨n + 1, t, by omega, (core_run_succ hv n).trans hrun, hend⟩

/-- Settles O52: polls use up the schedule until the engine completes the command, and the next poll ends the WAIT. -/
theorem waitEndsWithTheCommandCompleted : Obligations.WaitEndsWithTheCommandCompleted := by
  intro s q rest heng hin
  obtain ⟨u, hc, -⟩ := complete_idle q s
  obtain ⟨n, t, hle, hrun, hend⟩ := run_wait heng hc rfl hin
  exact ⟨n, t, u, hle, hrun, hc, hend.device, hend.inputs, hend.ended⟩

/-! ## The expansion of a command -/

theorem Reg.offset_lt (r : Reg) : r.offset < 0x40 := by cases r <;> decide

theorem Reg.offset_aligned (r : Reg) : r.offset % 4 = 0 := by cases r <;> rfl

theorem regAt_offset (r : Reg) : regAt r.offset = r := by cases r <;> rfl

/-- Other inputs to come. -/
def State.setInputs (xs : List Input) (s : State) : State := { s with inputs := xs }

/-- A register write is performed at once while the engine is Idle. -/
theorem step_wr {s : State} {r : Reg} {v : Word} {rest : List Input} (he : s.eng = .idle)
    (hin : s.inputs = wr s.cfg.base r v :: rest) : step s = .next ((s.setInputs rest).writeReg r v) := by
  obtain ⟨hturn, hspend⟩ := State.turn_idle he
  rw [step_host hturn hin, hspend]
  refine (performAccess_write (s := s.setInputs rest) v r.offset_lt r.offset_aligned).trans ?_
  rw [regAt_offset]

/-- A write of CMD issues while the engine is Idle. -/
theorem step_cmd {s : State} {v : Word} {rest : List Input} (he : s.eng = .idle)
    (hin : s.inputs = wr s.cfg.base .cmd v :: rest) :
    step s = .next { s with
      eng := .busy ⟨v, s.arg0, s.arg1, s.arg2, s.arg3⟩, inputs := rest, unconfirmed := true } :=
  (step_wr he hin).trans (congrArg Host.Outcome.next (State.issue_idle (s := s.setInputs rest) he v))

/-- One of ARG0 to ARG3. -/
def Reg.isArg (r : Reg) : Bool :=
  match r with
  | .arg0 | .arg1 | .arg2 | .arg3 => true
  | .ctrl | .status | .size | .info | .cmd | .result | .reserved => false

/-- Register writes, oldest first. -/
def State.writeRegs (ws : List (Reg × Word)) (s : State) : State := ws.foldl (fun s p => s.writeReg p.1 p.2) s

/-- A write of an operand register leaves alone what the next step looks at. -/
theorem State.writeReg_isArg {r : Reg} (hr : r.isArg = true) (v : Word) (s : State) :
    (s.writeReg r v).eng = s.eng ∧ (s.writeReg r v).cfg = s.cfg ∧ (s.writeReg r v).inputs = s.inputs ∧
      ∀ xs, (s.writeReg r v).setInputs xs = (s.setInputs xs).writeReg r v := by
  cases r with
  | arg0 | arg1 | arg2 | arg3 => exact ⟨rfl, rfl, rfl, fun _ => rfl⟩
  | ctrl | status | size | info | cmd | result | reserved => cases hr

/-- Writes of operand registers are performed one after another while the engine is Idle. -/
theorem run_writeRegs {ws : List (Reg × Word)} (hws : ∀ p ∈ ws, p.1.isArg = true) {s : State} {rest : List Input}
    (he : s.eng = .idle) (hin : s.inputs = ws.map (fun p => wr s.cfg.base p.1 p.2) ++ rest) :
    Sys2Proof.core.run ws.length s = .next ((s.setInputs rest).writeRegs ws) := by
  induction ws generalizing s with
  | nil => exact congrArg (fun xs => Host.Outcome.next (s.setInputs xs)) hin
  | cons p ws ih =>
    have hstep := step_wr he hin
    obtain ⟨heng, hcfg, hinputs, hcomm⟩ := State.writeReg_isArg (hws p List.mem_cons_self) p.2
      (s.setInputs (ws.map (fun p => wr s.cfg.base p.1 p.2) ++ rest))
    have hrun := ih (fun p' hp => hws p' (List.mem_cons_of_mem p hp)) (heng.trans he) (by rw [hinputs, hcfg]; rfl)
    rw [hcomm] at hrun
    exact (core_run_succ hstep ws.length).trans hrun

/-- The writes of the operand registers that a command reads, in ascending order (30_encoding.md R110). -/
def operandWrites (i : Instr) : List (Reg × Word) :=
  (if (listedBits i).a0 = 0 then [] else [(.arg0, (encode i).a0)])
    ++ (if (listedBits i).a1 = 0 then [] else [(.arg1, (encode i).a1)])
    ++ (if (listedBits i).a2 = 0 then [] else [(.arg2, (encode i).a2)])
    ++ (if (listedBits i).a3 = 0 then [] else [(.arg3, (encode i).a3)])

theorem operandWrites_isArg (i : Instr) : ∀ p ∈ operandWrites i, p.1.isArg = true := by
  unfold operandWrites
  grind [Reg.isArg]

theorem assemble_eq (base : Nat) (i : Instr) :
    assemble base i = (operandWrites i).map (fun p => wr base p.1 p.2) ++ [wr base .cmd (encode i).cw] := by
  cases i <;> rfl

/-- The operand registers as the expansion of a command leaves them. -/
def State.withOperands (i : Instr) (s : State) : State :=
  { s with
    arg0 := if (listedBits i).a0 = 0 then s.arg0 else (encode i).a0
    arg1 := if (listedBits i).a1 = 0 then s.arg1 else (encode i).a1
    arg2 := if (listedBits i).a2 = 0 then s.arg2 else (encode i).a2
    arg3 := if (listedBits i).a3 = 0 then s.arg3 else (encode i).a3 }

theorem State.writeRegs_operandWrites (i : Instr) (s : State) : s.writeRegs (operandWrites i) = s.withOperands i := by
  cases i <;> rfl

/-- The words latched of a command when its expansion has been performed. -/
def State.issuedLatch (i : Instr) (s : State) : Latch :=
  ⟨(encode i).cw, (s.withOperands i).arg0, (s.withOperands i).arg1, (s.withOperands i).arg2, (s.withOperands i).arg3⟩

theorem decode_issuedLatch {i : Instr} (hi : i.wellFormed = true) (s : State) : decode (s.issuedLatch i) = .legal i :=
  decode_of_operands hi rfl (fun h => if_neg h) (fun h => if_neg h) (fun h => if_neg h) (fun h => if_neg h)

/-- The state in which the expansion of a command has been performed: the command issued, `rest` still to come. -/
def State.issued (i : Instr) (rest : List Input) (s : State) : State :=
  { s.withOperands i with eng := .busy (s.issuedLatch i), inputs := rest, unconfirmed := true }

/-- The expansion of a command writes the operand registers it reads and issues it (30_encoding.md R110). -/
theorem run_assemble {s : State} {i : Instr} {rest : List Input} (he : s.eng = .idle)
    (hin : s.inputs = assemble s.cfg.base i ++ rest) :
    Sys2Proof.core.run ((operandWrites i).length + 1) s = .next (s.issued i rest) := by
  rw [assemble_eq, List.append_assoc] at hin
  have hwrites := run_writeRegs (operandWrites_isArg i) he hin
  rw [State.writeRegs_operandWrites] at hwrites
  have hcmd : step ((s.setInputs (wr s.cfg.base .cmd (encode i).cw :: rest)).withOperands i) =
      .next (s.issued i rest) :=
    step_cmd (s := (s.setInputs _).withOperands i) he rfl
  exact (core_run_add hwrites 1).trans (core_run_one hcmd)

/-! ## A command and its WAIT -/

/-- A command neither reads nor writes the engine. -/
theorem exec_setEng {i : Instr} {s t : State} (h : exec i s = .next t) (e : Engine) :
    exec i (s.setEng e) = .next (t.setEng e) := by
  rcases exec_cases h with ⟨w, hh, o, f, rfl, hinit⟩ | ⟨L, x, y, -, he, hget⟩ | ⟨h1, h2, hr, rfl⟩ | ⟨h1, h2, hr, rfl⟩
  · change execInit w hh o f (s.setEng e) = _
    unfold execInit raise succeed at hinit ⊢
    rw [(LeavesStorage.setEng e).cfg]
    split_ifs at hinit ⊢ <;> cases hinit <;> rfl
  · have hp : (s.setEng e).pixel L x y = s.pixel L x y := by cases L <;> rfl
    rw [he, readPixel]
    rcases readPixel_cases hget with ⟨hr, rfl⟩ | ⟨hr, rfl⟩
    · rw [if_pos (show (s.setEng e).ready = true from hr), hp]
      cases s.pixel L x y <;> rfl
    · rw [if_neg (by simp [State.setEng, hr])]
      rfl
  · rw [exec_storage h1 h2, whenReady_ready (show (s.setEng e).ready = true from hr),
      (LeavesStorage.setEng e).storageEffect]
    rfl
  · rw [exec_storage h1 h2, whenReady_notReady (show (s.setEng e).ready = false from hr)]
    rfl

/-- The completion of a held command is what the command does, whatever the engine held, and an Idle engine. -/
theorem complete_setEng {q : Latch} {i : Instr} {s t : State} (hd : decode q = .legal i) (h : exec i s = .next t)
    (e : Engine) : complete q (s.setEng e) = .next (t.setEng .idle) := by
  simp only [complete, hd, exec_setEng h, retire]
  rfl

/-- Settles O54: the expansion issues the command, and the WAIT ends with its completion. -/
theorem assembledCommandsTakeEffect : Obligations.AssembledCommandsTakeEffect := by
  intro s i rest hi he hin
  obtain ⟨u, hu⟩ := exec_completes i (s.withOperands i)
  have hidle : u.setEng .idle = u := by
    have heng : u.eng = .idle := (congrArg State.eng (exec_frame hu)).trans he
    rw [State.setEng, ← heng]
  have hc := complete_setEng (decode_issuedLatch hi s) hu (.busy (s.issuedLatch i))
  obtain ⟨n, t, -, hrun, hend⟩ := run_wait (s := s.issued i (.wait :: rest)) rfl hc rfl rfl
  rw [hidle] at hend
  exact ⟨_, t, u, (core_run_add (run_assemble he hin) n).trans hrun, hu, hend.device, hend.inputs, hend.ended⟩

end Sys2Proof.Machine

/-! # Proofs about the encoding

The obligations of 30_encoding.md: the round trips between commands and words, the reserved operand bits, the illegal
words, and the expansion of a command. -/

namespace Sys2Proof

/-! ## The round trips -/

/-- Settles O2: the words of a command are operands that decode to it. -/
theorem decodeOfEncodeIsTheCommand : Obligations.DecodeOfEncodeIsTheCommand :=
  fun _ hi => decode_of_operands hi rfl (fun _ => rfl) (fun _ => rfl) (fun _ => rfl) (fun _ => rfl)

/-- The layer bit is bit 8 of the command word. -/
theorem layerBit_layerOf (cw : Word) : layerBit (layerOf (cw.getLsbD 8)) = cw.extractLsb' 8 1 := by
  refine BitVec.eq_of_getLsbD_eq fun i hi => ?_
  obtain rfl : i = 0 := by omega
  rw [BitVec.getLsbD_extractLsb']
  cases cw.getLsbD 8 <;> rfl

/-- The command word of the fields read from a word whose reserved bits are 0. -/
theorem commandWord_of_fields {cw : Word} {op : BitVec 8} {L : Layer} (hrsv : cw.extractLsb' 9 23 = 0#23)
    (hop : (cw.extractLsb' 0 8).toNat = op.toNat) (hL : layerOf (cw.getLsbD 8) = L) :
    commandWord op (layerBit L) = cw := by
  rw [← BitVec.eq_of_toNat_eq hop, ← hL, layerBit_layerOf]
  exact (eq_commandWord hrsv).symm

/-- The bits of a latch that a mask keeps. -/
def Latch.masked (q m : Latch) : Latch :=
  ⟨q.cw &&& m.cw, q.a0 &&& m.a0, q.a1 &&& m.a1, q.a2 &&& m.a2, q.a3 &&& m.a3⟩

/-- The words of the command decoded from a latch are the listed bits of the latch (30_encoding.md R103): the operand
words field by field, the command word by its opcode and its layer bit. -/
theorem encode_of_decode {q : Latch} {i : Instr} (h : decode q = .legal i) : encode i = q.masked (listedBits i) := by
  obtain ⟨hrsv, hdec⟩ := decode_legal h
  have hlayer (op : BitVec 8) (hop : (q.cw.extractLsb' 0 8).toNat = op.toNat) :
      commandWord op (layerBit (layerOf (q.cw.getLsbD 8))) = q.cw := commandWord_of_fields hrsv hop rfl
  have hplain (op : BitVec 8) (hop : (q.cw.extractLsb' 0 8).toNat = op.toNat) (hl : q.cw.getLsbD 8 = false) :
      commandWord op 0#1 = q.cw :=
    commandWord_of_fields (L := .layer1) hrsv hop (by rw [hl]; rfl)
  rcases decodeOp_cases hdec with ⟨hop, hl, rfl⟩ | ⟨hop, hl, rfl⟩ | ⟨hop, rfl⟩ | ⟨hop, hl, rfl⟩ | ⟨hop, rfl⟩ |
    ⟨hop, hl, rfl⟩ | ⟨hop, rfl⟩ | ⟨hop, hl, rfl⟩ | ⟨hop, rfl⟩ | ⟨hop, hl, rfl⟩ | ⟨hop, rfl⟩ <;>
  simp only [encode, Latch.masked, listedBits, Latch.mk.injEq, ofU16_u16, ofS16_s16, pack_lo16_hi16, colorWord_lo16,
    initWord_fields, pointWord_pointOf, BitVec.ofNat_eq_ofNat, and_everyBit, BitVec.and_zero, and_true]
  exacts [hplain 0x01#8 hop hl, hplain 0x02#8 hop hl, hlayer 0x03#8 hop, hplain 0x04#8 hop hl, hlayer 0x05#8 hop,
    hplain 0x06#8 hop hl, hlayer 0x07#8 hop, hplain 0x08#8 hop hl, hlayer 0x09#8 hop, hplain 0x0A#8 hop hl,
    hlayer 0x0B#8 hop]

theorem listedBits_cw (i : Instr) : (listedBits i).cw = 0xFFFFFFFF#32 := by cases i <;> rfl

/-- The command word of a decoded command is the whole command word of the latch. -/
theorem encode_cw_of_decode {q : Latch} {i : Instr} (h : decode q = .legal i) : (encode i).cw = q.cw := by
  rw [encode_of_decode h, Latch.masked, listedBits_cw]
  exact and_everyBit q.cw

/-- Settles O3: the decoder gives well-formed commands, and the words of one are the listed bits of the latch. -/
theorem encodeOfDecodedKeepsEveryListedBit : Obligations.EncodeOfDecodedKeepsEveryListedBit := by
  intro q i h
  refine ⟨decode_wellFormed h, encode_cw_of_decode h, ?_⟩
  rw [encode_of_decode h]
  exact ⟨rfl, rfl, rfl, rfl⟩

/-! ## Reserved operand bits -/

theorem eq_of_and_everyBit {v w : Word} (h : v &&& 0xFFFFFFFF#32 = w &&& 0xFFFFFFFF#32) : v = w := by
  rwa [and_everyBit, and_everyBit] at h

theorem lo16_eq_of_and {v w : Word} (h : v &&& 0x0000FFFF#32 = w &&& 0x0000FFFF#32) : lo16 v = lo16 w := by
  rw [← colorWord_lo16, ← colorWord_lo16] at h
  simpa [colorWord] using congrArg lo16 h

/-- ARG1 of INIT is read in the fields ORIENT and PIXFMT only. -/
theorem initFields_eq_of_and {v w : Word} (h : v &&& 0x00000F03#32 = w &&& 0x00000F03#32) :
    v.extractLsb' 0 2 = w.extractLsb' 0 2 ∧ v.extractLsb' 8 4 = w.extractLsb' 8 4 := by
  rw [← initWord_fields, ← initWord_fields] at h
  have horient := congrArg (BitVec.extractLsb' 0 2) h
  have hformat := congrArg (BitVec.extractLsb' 8 4) h
  rw [initWord_orient, initWord_orient, orientBits_orientOf, orientBits_orientOf] at horient
  rw [initWord_format, initWord_format, BitVec.ofNat_toNat, BitVec.ofNat_toNat] at hformat
  exact ⟨horient, by simpa using hformat⟩

/-- An opcode names the same command on any latch with the same listed operand bits. -/
theorem decodeOp_of_listed {op : Nat} {l : Bool} {q r : Latch} {i : Instr} (h : decodeOp op l q = .legal i)
    (h0 : r.a0 &&& (listedBits i).a0 = q.a0 &&& (listedBits i).a0)
    (h1 : r.a1 &&& (listedBits i).a1 = q.a1 &&& (listedBits i).a1)
    (h2 : r.a2 &&& (listedBits i).a2 = q.a2 &&& (listedBits i).a2)
    (h3 : r.a3 &&& (listedBits i).a3 = q.a3 &&& (listedBits i).a3) : decodeOp op l r = .legal i := by
  rw [← h]
  rcases decodeOp_cases h with ⟨rfl, -, rfl⟩ | ⟨rfl, -, rfl⟩ | ⟨rfl, rfl⟩ | ⟨rfl, -, rfl⟩ | ⟨rfl, rfl⟩ |
    ⟨rfl, -, rfl⟩ | ⟨rfl, rfl⟩ | ⟨rfl, -, rfl⟩ | ⟨rfl, rfl⟩ | ⟨rfl, -, rfl⟩ | ⟨rfl, rfl⟩
  · obtain ⟨horient, hformat⟩ := initFields_eq_of_and h1
    simp only [decodeOp, eq_of_and_everyBit h0, horient, hformat]
  · simp only [decodeOp, lo16_eq_of_and h0]
  · simp only [decodeOp, lo16_eq_of_and h0]
  · simp only [decodeOp, eq_of_and_everyBit h0]
  · simp only [decodeOp, eq_of_and_everyBit h0]
  · simp only [decodeOp, eq_of_and_everyBit h0, lo16_eq_of_and h1]
  · simp only [decodeOp, eq_of_and_everyBit h0, lo16_eq_of_and h1]
  · simp only [decodeOp, eq_of_and_everyBit h0, eq_of_and_everyBit h1, eq_of_and_everyBit h3]
  · simp only [decodeOp, eq_of_and_everyBit h0, eq_of_and_everyBit h1, eq_of_and_everyBit h3]
  · simp only [decodeOp, eq_of_and_everyBit h0, eq_of_and_everyBit h1, eq_of_and_everyBit h2, eq_of_and_everyBit h3]
  · simp only [decodeOp, eq_of_and_everyBit h0, eq_of_and_everyBit h1, eq_of_and_everyBit h2, eq_of_and_everyBit h3]

/-- A word whose reserved bits are 0 is decoded by its opcode. -/
theorem decode_of_rsv {q : Latch} (h : q.cw.extractLsb' 9 23 = 0#23) :
    decode q = decodeOp (q.cw.extractLsb' 0 8).toNat (q.cw.getLsbD 8) q := if_pos h

/-- Settles O4: the command word fixes the opcode and the layer bit, and an opcode reads listed bits only. -/
theorem reservedOperandBitsAreIgnored : Obligations.ReservedOperandBitsAreIgnored := by
  intro q r i h hcw h0 h1 h2 h3
  obtain ⟨hrsv, hop⟩ := decode_legal h
  rw [decode_of_rsv (hcw ▸ hrsv), hcw]
  exact decodeOp_of_listed hop h0 h1 h2 h3

/-! ## Illegal words -/

/-- The command words that 30_encoding.md R105 lists as illegal. -/
abbrev IllegalWord (cw : Word) : Prop :=
  cw.extractLsb' 0 8 = 0x00 ∨ 0x0C ≤ (cw.extractLsb' 0 8).toNat ∨ cw.extractLsb' 9 23 ≠ 0
    ∨ (cw.getLsbD 8 = true ∧ (cw.extractLsb' 0 8).toNat ∈ [0x01, 0x02, 0x04, 0x06, 0x08, 0x0A])

theorem decodeOp_illegal_iff {op : Nat} {l : Bool} {q : Latch} :
    (∃ why, decodeOp op l q = .illegal why) ↔
      op = 0x00 ∨ 0x0C ≤ op ∨ (l = true ∧ op ∈ [0x01, 0x02, 0x04, 0x06, 0x08, 0x0A]) := by
  rcases Nat.lt_or_ge op 0x0C with hlt | hge
  · interval_cases op <;> cases l <;> simp [decodeOp, plain]
  · obtain ⟨k, rfl⟩ := Nat.exists_eq_add_of_le' hge
    exact ⟨fun _ => .inr (.inl hge), fun _ => ⟨_, rfl⟩⟩

theorem decode_illegal_iff {q : Latch} : (∃ why, decode q = .illegal why) ↔ IllegalWord q.cw := by
  by_cases hrsv : q.cw.extractLsb' 9 23 = 0#23
  · have hzero : q.cw.extractLsb' 0 8 = 0x00 ↔ (q.cw.extractLsb' 0 8).toNat = 0x00 := BitVec.toNat_inj.symm
    rw [decode_of_rsv hrsv, decodeOp_illegal_iff, IllegalWord, hzero]
    simp only [hrsv, BitVec.ofNat_eq_ofNat, ne_eq, not_true, false_or]
  · exact ⟨fun _ => .inr (.inr (.inl hrsv)), fun _ => ⟨_, if_neg hrsv⟩⟩

theorem decode_legal_iff {q : Latch} : (∃ i, decode q = .legal i) ↔ ¬ IllegalWord q.cw := by
  rw [← decode_illegal_iff]
  cases decode q <;> simp

/-- The command word of a command matches its own row only (30_encoding.md R102). -/
theorem encodesItsRow (i : Instr) : Laws.EncodesItsRow.Statement i := by
  cases i with
  | init => exact Laws.EncodesItsRow.init ..
  | clear => exact Laws.EncodesItsRow.clear ..
  | clearLayer => exact Laws.EncodesItsRow.clearLayer ..
  | getPixel => exact Laws.EncodesItsRow.getPixel ..
  | getPixelLayer => exact Laws.EncodesItsRow.getPixelLayer ..
  | setPixel => exact Laws.EncodesItsRow.setPixel ..
  | setPixelLayer => exact Laws.EncodesItsRow.setPixelLayer ..
  | drawRect => exact Laws.EncodesItsRow.drawRect ..
  | drawRectLayer => exact Laws.EncodesItsRow.drawRectLayer ..
  | drawTri => exact Laws.EncodesItsRow.drawTri ..
  | drawTriLayer => exact Laws.EncodesItsRow.drawTriLayer ..

theorem exists_row_of_encode (i : Instr) : ∃ r ∈ opcodeTable, r.matches (encode i).cw = true := by
  have hrow : Laws.EncodesItsRow.rowOf i ∈ Laws.EncodesItsRow.matchingRows (encode i).cw := by
    rw [encodesItsRow i]
    exact List.mem_singleton_self _
  obtain ⟨r, hr, -⟩ := List.mem_map.mp hrow
  exact ⟨r, List.mem_filter.mp hr⟩

/-- A row leaves at most the layer bit open. -/
theorem eq_or_eq_of_and_layerMask {cw v : Word} (h : cw &&& 0xFFFFFEFF#32 = v) : cw = v ∨ cw = v ||| 0x100#32 := by
  have hsplit : cw = v ||| (cw &&& 0x100#32) := by
    rw [← h, ← BitVec.and_or_distrib_left]
    exact (and_everyBit cw).symm
  rw [show 0x100#32 = BitVec.twoPow 32 8 from rfl, BitVec.and_twoPow] at hsplit
  split at hsplit
  · exact .inr hsplit
  · exact .inl (hsplit.trans BitVec.or_zero)

/-- The words that match a row of the table are legal. -/
theorem opcodeTable_legal : ∀ r ∈ opcodeTable, ¬ IllegalWord r.value
    ∧ (r.mask = 0xFFFFFFFF#32 ∨ (r.mask = 0xFFFFFEFF#32 ∧ ¬ IllegalWord (r.value ||| 0x100#32))) := by
  decide

/-- A word is legal exactly when it matches a row: what matches is a row's value, with the layer bit set or not, and
what is decoded is encoded back. -/
theorem exists_legal_iff_exists_row {q : Latch} :
    (∃ i, decode q = .legal i) ↔ ∃ r ∈ opcodeTable, r.matches q.cw = true := by
  constructor
  · rintro ⟨i, h⟩
    rw [← encode_cw_of_decode h]
    exact exists_row_of_encode i
  · rintro ⟨r, hr, hmatch⟩
    have hand : q.cw &&& r.mask = r.value := by simpa [OpcodeRow.matches] using hmatch
    obtain ⟨hvalue, hmask | ⟨hmask, hlayer⟩⟩ := opcodeTable_legal r hr
    · rw [hmask, and_everyBit] at hand
      rwa [decode_legal_iff, hand]
    · rw [hmask] at hand
      rw [decode_legal_iff]
      rcases eq_or_eq_of_and_layerMask hand with hcw | hcw <;> rwa [hcw]

end Sys2Proof

namespace Sys2Proof.Machine

/-- An illegal word completes with IllegalCommand and no other effect (30_encoding.md R105). -/
theorem complete_illegal {q : Latch} {why : Reject} (h : decode q = .illegal why) (s : State) :
    complete q s = .next { s with err := 5#4, eng := .idle } := by
  rw [complete, h]
  rfl

/-- Settles O5: the legal words by the table, the illegal ones by the decoder's cases, the issue by O9. -/
theorem illegalWordsCompleteWithIllegalCommand : Obligations.IllegalWordsCompleteWithIllegalCommand :=
  ⟨fun _ => exists_legal_iff_exists_row, fun _ => decode_illegal_iff, commandWriteIssuesOrIsDropped.1,
    fun s _ _ h => complete_illegal h s⟩

/-! ## The expansion of a command -/

/-- Settles O53: the expansion leaves the operand words of the command in the registers it reads, and latches them. -/
theorem assembledCommandsAreIssued : Obligations.AssembledCommandsAreIssued :=
  fun s i rest hi he hin =>
    ⟨_, s.issued i rest, s.issuedLatch i, run_assemble he hin, rfl, decode_issuedLatch hi s⟩

/-! ## Known words -/

/-- Settles O1: ten closed words, evaluated. -/
theorem knownWordsDecode : Obligations.KnownWordsDecode := by
  unfold Obligations.KnownWordsDecode
  decide

end Sys2Proof.Machine

/-! # Proofs about the display

The obligations of 40_display.md: the display commands one by one, what writes RESULT, and which layers a command can
write. -/

namespace Sys2Proof

/-! ## The words of the display commands -/

/-- A latch is decoded by the opcode and the layer bit of its command word (30_encoding.md R101). -/
theorem decode_of_cw {op : BitVec 8} {l : BitVec 1} {q : Latch} (h : q.cw = commandWord op l) :
    decode q = decodeOp op.toNat (l.getLsbD 0) q := by
  obtain ⟨cw, a0, a1, a2, a3⟩ := q
  obtain rfl : cw = commandWord op l := h
  exact decode_commandWord ..

/-- A word of a `_LAYER` command is decoded by its opcode to a command on the layer it names. -/
theorem decode_of_layer_cw {op : BitVec 8} {L : Layer} {q : Latch} {v w : Word} (hv : v = commandWord op 0#1)
    (hw : w = commandWord op 1#1) (h : q.cw = if L = .layer1 then v else w) :
    decode q = decodeOp op.toNat (decide (L = .layer2)) q := by
  subst hv hw
  cases L with
  | layer1 => exact decode_of_cw h
  | layer2 => exact decode_of_cw h

end Sys2Proof

namespace Sys2Proof.Machine

/-! ## The pixels of the canvas -/

theorem inBounds_natCast {W H x y : Nat} : inBounds W H x y = true ↔ x < W ∧ y < H := by
  rw [inBounds_iff]
  omega

theorem idx_natCast (W x y : Nat) : idx W x y = y * W + x := by
  unfold idx
  exact_mod_cast Int.toNat_natCast (y * W + x)

/-- Every one of the `W*H` indices is the index of a pixel in bounds (20_memory.md R71). -/
theorem exists_idx_eq {W H j : Nat} (h : j < W * H) : ∃ px py, inBounds W H px py = true ∧ idx W px py = j := by
  have hW : 0 < W := Nat.pos_of_mul_pos_right (Nat.zero_lt_of_lt h)
  refine ⟨(j % W : Nat), (j / W : Nat), inBounds_natCast.mpr ⟨Nat.mod_lt j hW, Nat.div_lt_of_lt_mul h⟩, ?_⟩
  rw [idx_natCast, Nat.mul_comm]
  exact Nat.div_add_mod j W

theorem State.pixel_inBounds {s : State} {x y : Nat} (hx : x < s.W) (hy : y < s.H) (L : Layer) :
    s.pixel L x y = some (Memory.read (s.fb L) (y * s.W + x)) := by
  rw [State.pixel, if_pos (inBounds_natCast.mpr ⟨hx, hy⟩), idx_natCast]

theorem State.pixel_outOfBounds {s : State} {x y : Nat} (h : s.W ≤ x ∨ s.H ≤ y) (L : Layer) : s.pixel L x y = none :=
  if_neg fun hin => by
    have := inBounds_natCast.mp hin
    omega

/-! ## INIT -/

section Init

variable {w h f : Nat} (o : Orientation) {s : State}

theorem execInit_dimensions (hdim : w = 0 ∨ h = 0) : execInit w h o f s = .next (s.setErr .invalidDimensions) :=
  if_pos hdim

variable (hw : w ≠ 0) (hh : h ≠ 0)
include hw hh

theorem execInit_format (hf : f ≠ 0) : execInit w h o f s = .next (s.setErr .unsupportedPixelFormat) := by
  rw [execInit, if_neg (by omega), if_pos hf, raise]

theorem execInit_capacity (hcap : s.cfg.maxPixels < w * h) :
    execInit w h o 0 s = .next (s.setErr .capacityExceeded) := by
  rw [execInit, if_neg (by omega), if_neg (not_not.mpr rfl), if_pos hcap, raise]

theorem execInit_construct (hcap : w * h ≤ s.cfg.maxPixels) :
    execInit w h o 0 s = .next ((s.construct w h o).setErr .ok) := by
  rw [execInit, if_neg (by omega), if_neg (not_not.mpr rfl), if_neg (by omega), succeed]

end Init

/-- A new display is BLACK everywhere (40_display.md R134). -/
theorem State.read_construct (w h : Nat) (o : Orientation) (s : State) (L : Layer) (j : Nat) :
    Memory.read ((s.construct w h o).fb L) j = BLACK := by
  cases L <;> rfl

/-- Settles O18: one rule for each of INIT's answers, in the order of its checks. -/
theorem initConstructsOrRaises : Obligations.InitConstructsOrRaises := by
  refine ⟨fun s w h f o _ _ _ => ⟨fun hdim => execInit_dimensions o hdim, fun hw hh hf => execInit_format o hw hh hf,
    fun hw hh hf hcap => ?_, fun hw hh hf hcap => ?_⟩, fun q hcw => ?_⟩
  · subst hf
    exact execInit_capacity o hw hh hcap
  · subst hf
    exact ⟨_, execInit_construct o hw hh hcap, rfl, fun L j => s.read_construct w h o L j⟩
  · exact ⟨_, orientBits_orientOf _, decode_of_cw (op := 0x01#8) (l := 0#1) hcw⟩

/-! ## Commands that write pixel storage -/

section Storage

variable {i : Instr} (hinit : isInit i = false) (hget : isGet i = false) {s : State}
include hinit hget

theorem exec_storage_ready (hr : s.ready = true) : exec i s = .next ((storageEffect i s).setErr .ok) :=
  (exec_storage hinit hget s).trans (whenReady_ready hr _)

theorem exec_storage_notReady (hr : s.ready = false) : exec i s = .next { s with err := 4#4 } :=
  (exec_storage hinit hget s).trans (whenReady_notReady hr _)

end Storage

/-- Replacing one layer paints it, when the new layer reads as the painting says. -/
theorem painted_setFb {s : State} {L : Layer} {m : Memory} {c : Color} {P : Int → Int → Prop}
    (hin : ∀ px py, inBounds s.W s.H px py = true → P px py → Memory.read m (idx s.W px py) = c)
    (hout : ∀ j, (∀ px py, inBounds s.W s.H px py = true → P px py → idx s.W px py ≠ j) →
      Memory.read m j = Memory.read (s.fb L) j) : Painted s ((s.setFb L m).setErr .ok) L c P := by
  have hfb : ((s.setFb L m).setErr .ok).fb L = m := by simp
  rw [Painted, hfb]
  exact ⟨by cases L <;> rfl, hin, hout⟩

/-- Writing one colour at the indices of the pixels that satisfy `P` paints them. -/
theorem painted_paint {s : State} {L : Layer} {is : List Nat} {P : Int → Int → Prop} (hs : Inv s)
    (his : ∀ j, j ∈ is ↔ ∃ px py, inBounds s.W s.H px py = true ∧ P px py ∧ idx s.W px py = j) (c : Color) :
    Painted s ((s.paint L is c).setErr .ok) L c P := by
  have hread := (Memory.foldl_write (hs.canonical L) c is).2
  refine painted_setFb (fun px py hb hp => ?_) fun j hj => ?_
  · rw [hread, if_pos ((his _).mpr ⟨px, py, hb, hp, rfl⟩)]
  · rw [hread, if_neg fun hmem => ?_]
    obtain ⟨px, py, hb, hp, he⟩ := (his j).mp hmem
    exact hj px py hb hp he

theorem painted_put {s : State} (hs : Inv s) (L : Layer) (x y : Int) (c : Color) :
    Painted s ((s.put L x y c).setErr .ok) L c fun px py => px = x ∧ py = y := by
  rw [State.put_eq_paint]
  refine painted_paint hs (fun j => ?_) c
  constructor
  · intro hj
    split at hj
    · exact ⟨x, y, ‹_›, ⟨rfl, rfl⟩, (List.mem_singleton.mp hj).symm⟩
    · cases hj
  · rintro ⟨_, _, hb, ⟨rfl, rfl⟩, rfl⟩
    rw [if_pos hb]
    exact List.mem_singleton_self _

/-- A layer of the display filled with one colour is painted all over: every index below `W*H` is of a pixel in bounds,
and none above is listed. -/
theorem painted_clearLayer {s : State} (hs : Inv s) (hr : s.ready = true) (L : Layer) (c : Color) :
    Painted s ((s.clearLayer L c).setErr .ok) L c fun _ _ => True := by
  refine painted_setFb (fun px py hb _ => ?_) fun j hj => ?_
  · rw [Memory.read_filled, if_pos (idx_lt hb)]
  · have hle : s.W * s.H ≤ j := by
      by_contra hlt
      obtain ⟨px, py, hb, he⟩ := exists_idx_eq (Nat.lt_of_not_le hlt)
      exact hj px py hb trivial he
    rw [Memory.read_filled, if_neg (by omega), Memory.read_outside (hs.sized hr L) hle]

/-- A CLEAR fills each layer alike. -/
theorem State.clearBoth_fb (c : Color) (s : State) (L : Layer) :
    (s.clearBoth c).fb L = Memory.filled (s.W * s.H) c := by
  cases L <;> rfl

/-- Settles O19: each layer holds the colour below `W*H`, and beyond it neither listed a pixel before. -/
theorem clearFillsBothLayers : Obligations.ClearFillsBothLayers := by
  refine ⟨fun s c hs hr => ⟨_, exec_storage_ready rfl rfl hr, rfl, fun L px py hb => ?_, fun L j hj => ?_⟩,
    fun s c hr => exec_storage_notReady rfl rfl hr, fun q hcw => decode_of_cw (op := 0x02#8) (l := 0#1) hcw⟩
  · rw [State.setErr_fb, storageEffect, State.clearBoth_fb, Memory.read_filled, if_pos (idx_lt hb)]
  · rw [State.setErr_fb, storageEffect, State.clearBoth_fb, Memory.read_filled, if_neg (by omega),
      Memory.read_outside (hs.sized hr L) hj]

/-- Settles O20: a filled layer is painted all over. -/
theorem clearLayerFillsOneLayer : Obligations.ClearLayerFillsOneLayer := by
  refine ⟨fun s L c hs hr => ⟨_, exec_storage_ready rfl rfl hr, painted_clearLayer hs hr L c⟩,
    fun s L c hr => exec_storage_notReady rfl rfl hr, fun q L hcw => ?_⟩
  rw [decode_of_layer_cw (op := 0x03#8) rfl rfl hcw]
  cases L <;> rfl

/-- Settles O23: the one pixel put is painted, of Layer1. -/
theorem setPixelWritesOnePixelOfLayer1 : Obligations.SetPixelWritesOnePixelOfLayer1 :=
  ⟨fun _ x y c hs hr => ⟨_, exec_storage_ready rfl rfl hr, painted_put hs .layer1 x y c⟩,
    fun _ _ _ _ hr => exec_storage_notReady rfl rfl hr, fun _ hcw => decode_of_cw (op := 0x06#8) (l := 0#1) hcw⟩

/-- Settles O24: the one pixel put is painted, of the layer named. -/
theorem setPixelLayerWritesOnePixel : Obligations.SetPixelLayerWritesOnePixel := by
  refine ⟨fun s L x y c hs hr => ⟨_, exec_storage_ready rfl rfl hr, painted_put hs L x y c⟩,
    fun s L x y c hr => exec_storage_notReady rfl rfl hr, fun q L hcw => ?_⟩
  rw [decode_of_layer_cw (op := 0x07#8) rfl rfl hcw]
  cases L <;> rfl

/-! ## The GET commands -/

section Get

variable {s : State} {x y : Nat} (L : Layer)

theorem readPixel_inBounds (hr : s.ready = true) (hx : x < s.W) (hy : y < s.H) :
    readPixel L x y s =
      .next { s with resValid := true, resColor := Memory.read (s.fb L) (y * s.W + x), err := 0#4 } := by
  rw [readPixel, if_pos hr, State.pixel_inBounds hx hy]
  rfl

theorem readPixel_outOfBounds (hr : s.ready = true) (hout : s.W ≤ x ∨ s.H ≤ y) :
    readPixel L x y s = .next { s with resValid := false, resColor := 0#16, err := 0#4 } := by
  rw [readPixel, if_pos hr, State.pixel_outOfBounds hout]
  rfl

theorem readPixel_notReady (hr : s.ready = false) :
    readPixel L x y s = .next { s with resValid := false, resColor := 0#16, err := 4#4 } := by
  rw [readPixel, if_neg (by simp [hr])]
  rfl

end Get

/-- Settles O21: the three answers of a GET, on Layer1. -/
theorem getPixelReadsLayer1 : Obligations.GetPixelReadsLayer1 :=
  ⟨fun _ _ _ => ⟨readPixel_inBounds .layer1, readPixel_outOfBounds .layer1, readPixel_notReady .layer1⟩,
    fun _ hcw => decode_of_cw (op := 0x04#8) (l := 0#1) hcw⟩

/-- Settles O22: the three answers of a GET, on the layer named. -/
theorem getPixelLayerReadsChosenLayer : Obligations.GetPixelLayerReadsChosenLayer := by
  refine ⟨fun s L x y => ⟨readPixel_inBounds L, readPixel_outOfBounds L, readPixel_notReady L⟩, fun q L hcw => ?_⟩
  rw [decode_of_layer_cw (op := 0x05#8) rfl rfl hcw]
  cases L <;> rfl

/-! ## RESULT -/

/-- RESULT of an absent pixel is 0 (10_state.md R41). -/
theorem State.resultWord_absent {s : State} (hv : s.resValid = false) (hc : s.resColor = 0#16) : s.resultWord = 0 := by
  rw [State.resultWord, hv, hc]
  decide

/-- RESULT of a pixel is VALID and its colour (10_state.md R41). -/
theorem State.resultWord_present {s : State} {c : Color} (hv : s.resValid = true) (hc : s.resColor = c) :
    s.resultWord = 0x00010000 ||| c.zeroExtend 32 := by
  rw [State.resultWord, hv, hc, BitVec.append_def]
  rfl

/-- Only a GET writes RESULT (40_display.md R151). -/
theorem exec_result_of_not_get {i : Instr} {s t : State} (h : exec i s = .next t) (hget : isGet i = false) :
    t.resValid = s.resValid ∧ t.resColor = s.resColor := by
  rcases exec_cases h with ⟨_, _, _, _, rfl, hinit⟩ | ⟨_, _, _, hget', -, -⟩ | ⟨-, -, -, rfl⟩ | ⟨-, -, -, rfl⟩
  · rcases execInit_cases hinit with ⟨-, rfl⟩ | ⟨-, -, -, rfl⟩ | ⟨-, -, -, -, rfl⟩ | ⟨-, -, -, -, rfl⟩ <;>
      exact ⟨rfl, rfl⟩
  · exact absurd hget' (by simp [hget])
  · rw [storageEffect_eq]
    exact ⟨rfl, rfl⟩
  · exact ⟨rfl, rfl⟩

/-- A GET overwrites RESULT whole. -/
theorem readPixel_result (L : Layer) (x y : Nat) (s : State) (b : Bool) (c : Color) :
    readPixel L x y { s with resValid := b, resColor := c } = readPixel L x y s := by
  have hpixel : ({ s with resValid := b, resColor := c } : State).pixel L x y = s.pixel L x y := by cases L <;> rfl
  have hset (r : Option Color) : ({ s with resValid := b, resColor := c } : State).setResult r = s.setResult r := by
    cases r <;> rfl
  rw [readPixel, readPixel, hpixel, hset, hset]

theorem result_eq_of_displayPart {s t : State} (h : t.displayPart = s.displayPart) :
    t.resValid = s.resValid ∧ t.resColor = s.resColor :=
  ⟨(congrArg State.resValid h :), (congrArg State.resColor h :)⟩

/-- A completion leaves RESULT alone unless it is of a GET. -/
theorem complete_result_cases {q : Latch} {s t : State} (h : complete q s = .next t) :
    (t.resValid = s.resValid ∧ t.resColor = s.resColor) ∨ ∃ i, decode q = .legal i ∧ isGet i = true := by
  rcases complete_cases h with ⟨-, -, rfl⟩ | ⟨i, u, hd, hu, rfl⟩
  · exact .inl ⟨rfl, rfl⟩
  · cases hget : isGet i with
    | false =>
      have hsame := exec_result_of_not_get hu hget
      exact .inl hsame
    | true => exact .inr ⟨i, hd, hget⟩

/-- Settles O39: a GET writes RESULT whole, no other command writes it, and of the other steps only a reset does. -/
theorem resultIsWrittenByGetsOnly : Obligations.ResultIsWrittenByGetsOnly := by
  refine ⟨fun i s t h hget => exec_result_of_not_get h hget, fun q why s t hd h => ?_, fun i s t b c hget h => ?_,
    fun i s t h hget hr => ?_, fun s t h => ?_⟩
  · rw [complete_illegal hd] at h
    cases h
    exact ⟨rfl, rfl⟩
  · obtain ⟨L, x, y, he⟩ := exec_get hget
    rwa [he, readPixel_result, ← he] at h
  · obtain ⟨L, x, y, he⟩ := exec_get hget
    rw [he, readPixel_notReady L hr] at h
    cases h
    exact State.resultWord_absent rfl rfl
  · rcases step_displayPart_cases h with ⟨q, hturn, heng, hc⟩ | hd | ⟨x, rest, u, hturn, hin, hr, -, rfl⟩
    · rcases complete_result_cases hc with hsame | ⟨i, hd, hget⟩
      · rw [State.spendTurn_resValid, State.spendTurn_resColor] at hsame
        exact .inl hsame
      · exact .inr (.inl ⟨q, i, hturn, heng, hd, hget⟩)
    · exact .inl (result_eq_of_displayPart hd)
    · exact .inr (.inr ⟨x, rest, hturn, hin, hr, State.resultWord_absent rfl rfl⟩)

/-! ## Which layers a command can write -/

theorem State.setFb_fb_of_ne {L M : Layer} (h : ¬ M = L) (m : Memory) (s : State) : (s.setFb L m).fb M = s.fb M :=
  (State.setFb_fb ..).trans (if_neg h)

theorem State.put_fb_of_ne {L M : Layer} (h : ¬ M = L) (x y : Int) (c : Color) (s : State) :
    (s.put L x y c).fb M = s.fb M := by
  obtain ⟨m, hm⟩ := s.put_setFb L x y c
  rw [hm, State.setFb_fb_of_ne h]

/-- A storage effect leaves the layers alone that its command does not name (40_display.md R154). -/
theorem storageEffect_fb_of_not_writes {i : Instr} {L : Layer} (h : writesLayer i L = false) (s : State) :
    (storageEffect i s).fb L = s.fb L := by
  cases i with
  | init | clear => cases h
  | getPixel | getPixelLayer => rfl
  | clearLayer | drawRectLayer | drawTriLayer => exact State.setFb_fb_of_ne (Ne.symm (of_decide_eq_false h)) ..
  | drawRect | drawTri => exact State.setFb_fb_of_ne (of_decide_eq_false h) ..
  | setPixel => exact State.put_fb_of_ne (of_decide_eq_false h) ..
  | setPixelLayer => exact State.put_fb_of_ne (Ne.symm (of_decide_eq_false h)) ..

/-- Settles O42: INIT writes both layers, a GET none, and a storage effect the layers its command names. -/
theorem commandsLeaveOtherLayersAlone : Obligations.CommandsLeaveOtherLayersAlone := by
  intro i s t L h hw
  rcases exec_cases h with ⟨_, _, _, _, rfl, -⟩ | ⟨_, _, _, -, -, hget⟩ | ⟨-, -, -, rfl⟩ | ⟨-, -, -, rfl⟩
  · cases hw
  · rcases readPixel_cases hget with ⟨-, rfl⟩ | ⟨-, rfl⟩ <;> rw [State.setErr_fb, State.setResult_fb]
  · rw [State.setErr_fb, storageEffect_fb_of_not_writes hw]
  · rw [State.setErr_fb]

/-! ## A colour written is the colour read -/

/-- RESULT after a GET with a display: the pixel, VALID, or 0 out of bounds. -/
theorem resultWord_of_readPixel {L : Layer} {x y : Nat} {s t : State} (hr : s.ready = true)
    (h : readPixel L x y s = .next t) {c : Color} (hc : x < s.W ∧ y < s.H → Memory.read (s.fb L) (y * s.W + x) = c) :
    t.resultWord = if x < s.W ∧ y < s.H then 0x00010000 ||| c.zeroExtend 32 else 0 := by
  split
  · next hin =>
    rw [readPixel_inBounds L hr hin.1 hin.2, hc hin] at h
    cases h
    exact State.resultWord_present rfl rfl
  · next hout =>
    rw [readPixel_outOfBounds L hr (by omega)] at h
    cases h
    exact State.resultWord_absent rfl rfl

theorem storageEffect_ready (i : Instr) (s : State) : (storageEffect i s).ready = s.ready := by
  rw [storageEffect_eq]

theorem storageEffect_W (i : Instr) (s : State) : (storageEffect i s).W = s.W := by
  rw [storageEffect_eq]
  rfl

theorem storageEffect_H (i : Instr) (s : State) : (storageEffect i s).H = s.H := by
  rw [storageEffect_eq]
  rfl

/-- A GET after a command that writes storage reads what the command left there. -/
theorem resultWord_after_storage {i : Instr} {L : Layer} {x y : Nat} {s t u : State} (hinit : isInit i = false)
    (hnot : isGet i = false) (hr : s.ready = true) (ht : exec i s = .next t) (hu : readPixel L x y t = .next u)
    {c : Color} (hc : x < s.W ∧ y < s.H → Memory.read ((storageEffect i s).fb L) (y * s.W + x) = c) :
    u.resultWord = if x < s.W ∧ y < s.H then 0x00010000 ||| c.zeroExtend 32 else 0 := by
  cases (exec_storage_ready hinit hnot hr).symm.trans ht
  have hW : ((storageEffect i s).setErr .ok).W = s.W := storageEffect_W i s
  have hH : ((storageEffect i s).setErr .ok).H = s.H := storageEffect_H i s
  have hready : ((storageEffect i s).setErr .ok).ready = true := (storageEffect_ready i s).trans hr
  have hget := resultWord_of_readPixel (c := c) hready hu
  rw [hW, hH, State.setErr_fb] at hget
  exact hget hc

/-- Settles O44: the pixel that was set is the one that is read. -/
theorem setThenGetReturnsTheColour : Obligations.SetThenGetReturnsTheColour := by
  intro s t u L x y c hs hr hset hget
  refine resultWord_after_storage rfl rfl hr hset hget fun hin => ?_
  obtain ⟨-, hpainted, -⟩ := painted_put hs L x y c
  have hread := hpainted x y (inBounds_natCast.mpr hin) ⟨rfl, rfl⟩
  rwa [idx_natCast, State.setErr_fb] at hread

/-- Settles O45: a CLEAR fills the display that INIT has made. -/
theorem initThenClearShowsTheColour : Obligations.InitThenClearShowsTheColour := by
  intro s t u v w h x y o c hw hw' hh hh' hcap hx hy hinit hclear hget
  cases (execInit_construct o (by omega) (by omega) hcap).symm.trans hinit
  have hW : ((s.construct w h o).setErr .ok).W = w := State.construct_W (decide_eq_true hw') h o s
  have hH : ((s.construct w h o).setErr .ok).H = h := State.construct_H (decide_eq_true hh') w o s
  have hin : inBounds w h x y = true := inBounds_natCast.mpr ⟨hx, hy⟩
  rw [resultWord_after_storage (c := c) rfl rfl rfl hclear hget fun _ => ?_, hW, hH, if_pos ⟨hx, hy⟩]
  rw [storageEffect, State.clearBoth_fb, Memory.read_filled, hW, hH, ← idx_natCast, if_pos (idx_lt hin)]

/-! ## The plain commands, and the step that runs one -/

/-- Settles O36: a plain command and its `_LAYER` form share their meaning, at Layer1. -/
theorem plainCommandsAreLayer1Forms : Obligations.PlainCommandsAreLayer1Forms :=
  fun _ => ⟨fun _ _ => rfl, fun _ _ _ => rfl, fun _ _ _ _ _ _ => rfl, fun _ _ _ _ _ => rfl⟩

/-- While a command is held a schedule entry is used up exactly where inputs remain (10_state.md R30, log entry 5). -/
theorem State.spendTurn_busy {s : State} (hb : s.busy = true) :
    s.spendTurn = { s with sched := if s.inputs = [] then s.sched else s.sched.tail } := by
  rw [State.spendTurn]
  by_cases hi : s.inputs = []
  · rw [if_pos hi, if_neg (by simp [State.contended, hi])]
  · rw [if_neg hi, if_pos (by simp [State.contended, hb, hi])]

/-- Settles O46: the engine's turn is the completion of the words it holds. -/
theorem stepRunsTheHeldCommand : Obligations.StepRunsTheHeldCommand := by
  intro s q i hturn heng hd
  obtain ⟨t, ht⟩ := exec_completes i s.spendTurn
  refine ⟨t, ht, ?_, State.spendTurn_busy (State.busy_iff.mpr ⟨q, heng⟩)⟩
  rw [step_engine hturn heng, complete, hd]
  simp only [ht, retire]

end Sys2Proof.Machine

/-! # Proofs about rectangles

The obligations of 41_rectangle.md: the clipped fill, the four bands and their closed form, the pixel count, and the
shapes that draw nothing. -/

namespace Sys2Proof.Machine

/-! ## The clipped fill -/

theorem Memory.read_fill {W H : Nat} {m : Memory} (hm : Memory.wf m = true) (x y w h : Int) (c : Color) (j : Nat) :
    Memory.read (Memory.fill W H x y w h c m) j = if j ∈ fillIndices W H x y w h then c else Memory.read m j := by
  rw [Memory.fill_eq]
  exact (Memory.foldl_write hm c _).2 j

/-- Settles O25: the indices that Fill writes are those of its in-bounds pixels. -/
theorem fillSetsExactlyTheClippedSpan : Obligations.FillSetsExactlyTheClippedSpan := by
  intro W H x y w h c m hm
  refine ⟨fun px py hb hx hxw hy hyh => ?_, fun j hj => ?_⟩
  · rw [Memory.read_fill hm, if_pos (mem_fillIndices.mpr ⟨px, py, hb, ⟨hx, hxw, hy, hyh⟩, rfl⟩)]
  · rw [Memory.read_fill hm, if_neg fun hmem => ?_]
    obtain ⟨px, py, hb, ⟨hx, hxw, hy, hyh⟩, he⟩ := mem_fillIndices.mp hmem
    exact hj px py hb hx hxw hy hyh he

/-! ## The four bands -/

theorem painted_drawRect {s : State} (hs : Inv s) (L : Layer) (x y : Int) (w h t : Nat) (c : Color) :
    Painted s ((s.drawRect L x y w h t c).setErr .ok) L c (inBands x y w h t) := by
  rw [State.drawRect_eq_paint]
  exact painted_paint hs (fun _ => mem_bandIndices) c

/-- Settles O26: the indices that a rectangle writes are those of its in-bounds band pixels, of Layer1. -/
theorem drawRectPaintsTheFourBands : Obligations.DrawRectPaintsTheFourBands := by
  refine ⟨fun s x y w h t c hs hr => ⟨_, exec_storage_ready rfl rfl hr, painted_drawRect hs .layer1 x y w h t c⟩,
    fun s x y w h t c hr => exec_storage_notReady rfl rfl hr, fun q hcw => ?_⟩
  rw [← s16_eq_toInt, ← s16_eq_toInt]
  exact decode_of_cw (op := 0x08#8) (l := 0#1) hcw

/-! ## The closed form of the outline -/

/-- A band's pixels lie near its edge of the rectangle, and a pixel near an edge lies in the first of the top, the
bottom, the left and the right band whose edge it is near (41_rectangle.md R178). No size has to be positive. -/
theorem inBands_iff_inOutline {x y w h t px py : Int} : inBands x y w h t px py ↔ inOutline x y w h t px py := by
  unfold inBands inOutline inRect
  constructor
  · rintro (htop | ⟨-, hbottom⟩ | hleft | hright)
    · exact ⟨by omega, .inl (by omega)⟩
    · exact ⟨by omega, .inr (.inl (by omega))⟩
    · exact ⟨by omega, .inr (.inr (.inl (by omega)))⟩
    · exact ⟨by omega, .inr (.inr (.inr (by omega)))⟩
  · rintro ⟨hin, hnear⟩
    by_cases htop : py - y < t
    · exact .inl (by omega)
    by_cases hbottom : py - y ≥ h - t
    · exact .inr (.inl (by omega))
    by_cases hleft : px - x < t
    · exact .inr (.inr (.inl (by omega)))
    · exact .inr (.inr (.inr (by omega)))

/-- Settles O30: the bands painted are the closed form. -/
theorem rectangleOutlineHasItsClosedForm : Obligations.RectangleOutlineHasItsClosedForm := by
  intro s L x y w h t c hs hr _ _ _
  have hform : inBands x y w h t = inOutline x y w h t := funext₂ fun _ _ => propext inBands_iff_inOutline
  exact ⟨_, exec_storage_ready rfl rfl hr, hform ▸ painted_drawRect hs L x y w h t c⟩

/-! ## The pixel count -/

/-- The pixels of an outline whose corner is not negative: the rectangle without its inner rectangle
(41_rectangle.md R178). -/
def outlinePixels (x y w h t : Nat) : Finset (Nat × Nat) :=
  (Finset.Ico x (x + w) ×ˢ Finset.Ico y (y + h)) \
    (Finset.Ico (x + t) (x + w - t) ×ˢ Finset.Ico (y + t) (y + h - t))

theorem mem_outlinePixels {x y w h t px py : Nat} :
    (px, py) ∈ outlinePixels x y w h t ↔ inOutline x y w h t px py := by
  simp only [outlinePixels, Finset.mem_sdiff, Finset.mem_product, Finset.mem_Ico, inOutline, inRect]
  omega

theorem card_outlinePixels (x y w h t : Nat) :
    (outlinePixels x y w h t).card = w * h - (w - 2 * t) * (h - 2 * t) := by
  have hinner : Finset.Ico (x + t) (x + w - t) ×ˢ Finset.Ico (y + t) (y + h - t) ⊆
      Finset.Ico x (x + w) ×ˢ Finset.Ico y (y + h) :=
    Finset.product_subset_product (Finset.Ico_subset_Ico (by omega) (by omega))
      (Finset.Ico_subset_Ico (by omega) (by omega))
  rw [outlinePixels, Finset.card_sdiff_of_subset hinner]
  simp only [Finset.card_product, Nat.card_Ico]
  congr 2 <;> omega

theorem outlinePixels_inBounds {W H x y w h t : Nat} (hx : x + w ≤ W) (hy : y + h ≤ H) {p : Nat × Nat}
    (hp : p ∈ outlinePixels x y w h t) : inBounds W H p.1 p.2 = true := by
  obtain ⟨⟨-, hpx, -, hpy⟩, -⟩ := mem_outlinePixels.mp hp
  exact inBounds_natCast.mpr (by omega)

/-- A rectangle inside the canvas writes the indices of its outline's pixels. -/
theorem mem_bandIndices_of_inside {W H x y w h t j : Nat} (hx : x + w ≤ W) (hy : y + h ≤ H) :
    j ∈ bandIndices W H x y w h t ↔ ∃ p ∈ outlinePixels x y w h t, idx W p.1 p.2 = j := by
  simp only [mem_bandIndices, inBands_iff_inOutline]
  constructor
  · rintro ⟨px, py, hb, hp, rfl⟩
    obtain ⟨hpx, -, hpy, -⟩ := inBounds_iff.mp hb
    lift px to Nat using hpx
    lift py to Nat using hpy
    exact ⟨(px, py), mem_outlinePixels.mpr hp, rfl⟩
  · rintro ⟨⟨px, py⟩, hp, rfl⟩
    exact ⟨px, py, outlinePixels_inBounds hx hy hp, mem_outlinePixels.mp hp, rfl⟩

theorem Memory.read_drawRect {W H : Nat} {m : Memory} (hm : Memory.wf m = true) (x y : Int) (w h t : Nat) (c : Color)
    (j : Nat) : Memory.read (Memory.drawRect W H x y w h t c m) j =
      if j ∈ bandIndices W H x y w h t then c else Memory.read m j := by
  rw [Memory.drawRect_eq]
  exact (Memory.foldl_write hm c _).2 j

/-- On a BLACK canvas the pixels of another colour are those a rectangle of that colour has written. -/
theorem Memory.read_drawRect_black_iff {W H : Nat} {x y : Int} {w h t : Nat} {c : Color} (hc : c ≠ BLACK) {j : Nat} :
    Memory.read (Memory.drawRect W H x y w h t c []) j = c ↔ j ∈ bandIndices W H x y w h t := by
  rw [Memory.read_drawRect rfl, ite_eq_left_iff, Memory.read_nil, Memory.unlisted_eq]
  exact ⟨fun himp => by_contra fun hmem => hc (himp hmem).symm, fun hmem hnot => absurd hmem hnot⟩

/-- Settles O31: the pixels that hold the colour are the image of the outline's under `idx`, which is injective. -/
theorem rectangleInsideTheCanvasHasItsCount : Obligations.RectangleInsideTheCanvasHasItsCount := by
  intro W H x y w h t c hx hy _ _ _ hc
  have himage : {j ∈ Finset.range (W * H) | Memory.read (Memory.drawRect W H x y w h t c []) j = c} =
      (outlinePixels x y w h t).image fun p => idx W p.1 p.2 := by
    ext j
    rw [Finset.mem_filter, Finset.mem_range, Memory.read_drawRect_black_iff hc, mem_bandIndices_of_inside hx hy,
      Finset.mem_image, and_iff_right_of_imp]
    rintro ⟨p, hp, rfl⟩
    exact idx_lt (outlinePixels_inBounds hx hy hp)
  refine (Nat.count_eq_card_filter_range _ _).trans ?_
  rw [himage, Finset.card_image_of_injOn, card_outlinePixels]
  intro p hp q hq he
  obtain ⟨h1, h2⟩ := idx_injective (outlinePixels_inBounds hx hy hp) (outlinePixels_inBounds hx hy hq) he
  exact Prod.ext (Int.ofNat.inj h1) (Int.ofNat.inj h2)

/-! ## The shapes that draw nothing -/

theorem Memory.drawRect_degenerate {W H : Nat} {x y : Int} {w h t : Nat}
    (hno : w = 0 ∨ h = 0 ∨ t = 0 ∨ x + w ≤ 0 ∨ (W : Int) ≤ x ∨ y + h ≤ 0 ∨ (H : Int) ≤ y) (c : Color) (m : Memory) :
    Memory.drawRect W H x y w h t c m = m := by
  unfold Memory.drawRect
  split
  · rfl
  · rw [if_pos (by omega)]

theorem Memory.drawTri_degenerate {a b c : Point} {t : Nat} (hno : t = 0 ∨ (a = b ∧ b = c)) (W H : Nat)
    (mode : SquareHalf) (col : Color) (m : Memory) : Memory.drawTri W H mode a b c t col m = m := by
  rw [Memory.drawTri_eq, triIndices, if_pos hno]
  rfl

/-- Settles O32: a layer that no pixel is written to is the same layer. -/
theorem degenerateShapesDrawNothing : Obligations.DegenerateShapesDrawNothing := by
  refine ⟨fun s L x y w h t c hr hno => ?_, fun s L a b c t col hr hno => ?_⟩
  · rw [exec_storage_ready rfl rfl hr, storageEffect, State.drawRect, Memory.drawRect_degenerate hno, State.setFb_self]
    rfl
  · rw [exec_storage_ready rfl rfl hr, storageEffect, State.drawTri, Memory.drawTri_degenerate hno, State.setFb_self]
    rfl

end Sys2Proof.Machine

/-! # Proofs about lines and triangles

The obligations of 42_line_triangle.md: the points of a line, how many there are and where they lie, and the stroked
triangle. -/

namespace Sys2Proof.Machine

/-! ## The loop as an iteration -/

theorem absInt_eq_natAbs (v : Int) : absInt v = v.natAbs := by
  unfold absInt
  omega

theorem lineTurns_eq (p q : Point) : lineTurns p q = max (q.x - p.x).natAbs (q.y - p.y).natAbs := by
  rw [lineTurns, absInt_eq_natAbs, absInt_eq_natAbs]
  omega

/-- The point a walker stands on. -/
def Walker.point (k : Walker) : Point := ⟨k.x, k.y⟩

theorem Walker.point_eq_iff {k : Walker} {p : Point} : k.point = p ↔ k.x = p.x ∧ k.y = p.y := by
  cases p
  simp [Walker.point]

/-- The walker of a line after `n` turns of the loop of R200. -/
def lineWalker (p q : Point) (n : Nat) : Walker :=
  (advance (slopeOf p q))^[n] { x := p.x, y := p.y, err := (slopeOf p q).dx + (slopeOf p q).dy }

theorem lineWalker_succ (p q : Point) (n : Nat) :
    lineWalker p q (n + 1) = advance (slopeOf p q) (lineWalker p q n) :=
  Function.iterate_succ_apply' ..

theorem slopeOf_dx (p q : Point) : (slopeOf p q).dx = (q.x - p.x).natAbs := absInt_eq_natAbs _

theorem slopeOf_dy (p q : Point) : (slopeOf p q).dy = -((q.y - p.y).natAbs : Int) := by
  rw [← absInt_eq_natAbs]
  rfl

theorem slopeOf_dx_nonneg (p q : Point) : 0 ≤ (slopeOf p q).dx := by
  rw [slopeOf_dx]
  exact Int.natCast_nonneg _

theorem slopeOf_dy_nonpos (p q : Point) : (slopeOf p q).dy ≤ 0 := by
  rw [slopeOf_dy]
  exact Int.neg_nonpos_of_nonneg (Int.natCast_nonneg _)

/-- One turn of the loop tests the same `e2` in both halves (42_line_triangle.md R200). -/
theorem advance_eq (g : Slope) (k : Walker) : advance g k =
    { x := if g.dy ≤ 2 * k.err then k.x + g.sx else k.x
      y := if 2 * k.err ≤ g.dx then k.y + g.sy else k.y
      err := k.err + (if g.dy ≤ 2 * k.err then g.dy else 0) + (if 2 * k.err ≤ g.dx then g.dx else 0) } := by
  unfold advance advanceX advanceY
  by_cases hx : g.dy ≤ 2 * k.err <;> by_cases hy : 2 * k.err ≤ g.dx <;> simp [hx, hy]

/-- A walk whose walkers meet the end point on no turn but the last visits the iterates of the loop's turn. -/
theorem walk_eq_map {g : Slope} {fuel : Nat} {k : Walker}
    (h : ∀ n < fuel, ((advance g)^[n] k).point ≠ g.stop) :
    walk g fuel k = (List.range (fuel + 1)).map fun n => ((advance g)^[n] k).point := by
  induction fuel generalizing k with
  | zero => rfl
  | succ fuel ih =>
    have hstop : ¬ (k.x = g.stop.x ∧ k.y = g.stop.y) := mt Walker.point_eq_iff.mpr (h 0 (Nat.succ_pos _))
    rw [walk, if_neg hstop, List.range_succ_eq_map, List.map_cons, List.map_map,
      ih fun n hn => h (n + 1) (Nat.succ_lt_succ hn)]
    rfl

/-! ## Where the walker stands -/

/-- How far a walk of `i` steps in x and `j` in y is off the line: `j * |dx| - i * |dy|`, which is 0 on it. -/
def drift (g : Slope) (i j : Nat) : Int := j * g.dx + i * g.dy

theorem drift_step (g : Slope) (i j : Nat) (a b : Prop) [Decidable a] [Decidable b] :
    drift g (i + if a then 1 else 0) (j + if b then 1 else 0) =
      drift g i j + (if a then g.dy else 0) + if b then g.dx else 0 := by
  unfold drift
  split_ifs <;> push_cast <;> ring

/-- The walker `k` has made `n` turns from `p`, `i` of them with a step in x and `j` with one in y: it steps along a
longest side at every turn, its error term is the start's and the drift, and the drift is at most half the longest
side, so that it is within half a pixel of the line. -/
structure Walker.OnLine (g : Slope) (p : Point) (n i j : Nat) (k : Walker) : Prop where
  x : k.x = p.x + i * g.sx
  y : k.y = p.y + j * g.sy
  err : k.err = g.dx + g.dy + drift g i j
  near : (2 * drift g i j).natAbs ≤ max g.dx (-g.dy)
  wide : -g.dy ≤ g.dx → i = n
  tall : g.dx ≤ -g.dy → j = n

/-- The arithmetic of one turn at drift `d`: it steps along a longest side, and the other test keeps the drift small. -/
theorem turn_keeps_near {dx dy d e : Int} (hdx : 0 ≤ dx) (hdy : dy ≤ 0) (he : e = dx + dy + d)
    (hd : (2 * d).natAbs ≤ max dx (-dy)) :
    (2 * (d + (if dy ≤ 2 * e then dy else 0) + if 2 * e ≤ dx then dx else 0)).natAbs ≤ max dx (-dy)
      ∧ (-dy ≤ dx → dy ≤ 2 * e) ∧ (dx ≤ -dy → 2 * e ≤ dx) := by
  split_ifs <;> omega

/-- A turn of the loop takes the walker one turn further along the line. -/
theorem Walker.OnLine.advance {g : Slope} (hdx : 0 ≤ g.dx) (hdy : g.dy ≤ 0) {p : Point} {n i j : Nat} {k : Walker}
    (h : k.OnLine g p n i j) :
    (advance g k).OnLine g p (n + 1)
      (i + if g.dy ≤ 2 * k.err then 1 else 0) (j + if 2 * k.err ≤ g.dx then 1 else 0) := by
  obtain ⟨hnear, hstepX, hstepY⟩ := turn_keeps_near hdx hdy h.err h.near
  rw [advance_eq]
  refine ⟨?_, ?_, ?_, ?_, fun hle => ?_, fun hle => ?_⟩
  · rw [h.x]
    split_ifs <;> push_cast <;> ring
  · rw [h.y]
    split_ifs <;> push_cast <;> ring
  · rw [drift_step]
    linarith [h.err]
  · rwa [drift_step]
  · rw [if_pos (hstepX hle), h.wide hle]
  · rw [if_pos (hstepY hle), h.tall hle]

theorem lineWalker_onLine (p q : Point) (n : Nat) : ∃ i j, (lineWalker p q n).OnLine (slopeOf p q) p n i j := by
  have hdx := slopeOf_dx_nonneg p q
  induction n with
  | zero => exact ⟨0, 0, by simp [lineWalker], by simp [lineWalker], by simp [lineWalker, drift],
      by simp [drift, hdx], fun _ => rfl, fun _ => rfl⟩
  | succ n ih =>
    obtain ⟨i, j, h⟩ := ih
    exact ⟨_, _, lineWalker_succ p q n ▸ h.advance hdx (slopeOf_dy_nonpos p q)⟩

/-! ## What the drift says of the steps -/

section Drift

variable {g : Slope} {p : Point} {n i j : Nat} {k : Walker} (h : k.OnLine g p n i j)
include h

/-- A drift that is a multiple of the longest side is none, because it is at most half of it. -/
theorem Walker.OnLine.factor_eq_zero (hpos : 0 < max g.dx (-g.dy)) {c : Int}
    (hc : drift g i j = max g.dx (-g.dy) * c) : c = 0 := by
  have hsmall : |drift g i j| < max g.dx (-g.dy) := by
    have := h.near
    rw [Int.abs_eq_natAbs]
    omega
  have hzero := Int.eq_zero_of_abs_lt_dvd ⟨c, hc⟩ hsmall
  exact (mul_eq_zero.mp (hc.symm.trans hzero)).resolve_left hpos.ne'

/-- After as many turns as the longest side has steps, the other side's steps are all made too. -/
theorem Walker.OnLine.steps_at_end (hdx : 0 ≤ g.dx) (hdy : g.dy ≤ 0) (hn : (n : Int) = max g.dx (-g.dy)) :
    (i : Int) = g.dx ∧ (j : Int) = -g.dy := by
  rcases lt_trichotomy g.dx (-g.dy) with hlt | heq | hgt
  · have hj : (j : Int) = -g.dy := by rw [h.tall hlt.le]; omega
    have hi : g.dx - i = 0 := h.factor_eq_zero (by omega) (by rw [max_eq_right hlt.le, drift, hj]; ring)
    omega
  · have hi := h.wide heq.ge
    have hj := h.tall heq.le
    omega
  · have hi : (i : Int) = g.dx := by rw [h.wide hgt.le]; omega
    have hj : j + g.dy = 0 := h.factor_eq_zero (by omega) (by rw [max_eq_left hgt.le, drift, hi]; ring)
    omega

/-- A line with no extent in x takes no step in x. -/
theorem Walker.OnLine.no_x_steps (hn : (n : Int) ≤ max g.dx (-g.dy)) (hdx : g.dx = 0) (hdy : g.dy ≤ 0) : i = 0 := by
  rcases hdy.eq_or_lt with heq | hlt
  · have := h.wide (by omega)
    omega
  · have : -(i : Int) = 0 := h.factor_eq_zero (by omega) (by rw [max_eq_right (by omega), drift, hdx]; ring)
    omega

/-- A line with no extent in y takes no step in y. -/
theorem Walker.OnLine.no_y_steps (hn : (n : Int) ≤ max g.dx (-g.dy)) (hdy : g.dy = 0) (hdx : 0 ≤ g.dx) : j = 0 := by
  rcases hdx.eq_or_lt with heq | hlt
  · have := h.tall (by omega)
    omega
  · have : (j : Int) = 0 := h.factor_eq_zero (by omega) (by rw [max_eq_left (by omega), drift, hdy]; ring)
    omega

end Drift

/-! ## How many points a line has, and its ends -/

theorem lineTurns_cast (p q : Point) : (lineTurns p q : Int) = max (slopeOf p q).dx (-(slopeOf p q).dy) := by
  rw [lineTurns_eq, slopeOf_dx, slopeOf_dy]
  omega

/-- Steps of sign `b - a` lead from `a` to `b` when there are `|b - a|` of them. -/
theorem steps_reach_iff {a b : Int} {i : Nat} :
    a + i * (if a < b then 1 else -1) = b ↔ (i : Int) = (b - a).natAbs := by
  split_ifs <;> omega

theorem Walker.OnLine.point_eq_iff {p q : Point} {n i j : Nat} {k : Walker} (h : k.OnLine (slopeOf p q) p n i j) :
    k.point = q ↔ (i : Int) = (slopeOf p q).dx ∧ (j : Int) = -(slopeOf p q).dy := by
  rw [Walker.point_eq_iff, h.x, h.y, slopeOf_dx, slopeOf_dy, neg_neg]
  exact and_congr steps_reach_iff steps_reach_iff

/-- The walker meets the end point after `max(|dx|, |dy|)` turns and not before. -/
theorem lineWalker_point_eq_iff {p q : Point} {n : Nat} (hn : n ≤ lineTurns p q) :
    (lineWalker p q n).point = q ↔ n = lineTurns p q := by
  obtain ⟨i, j, h⟩ := lineWalker_onLine p q n
  have hturns := lineTurns_cast p q
  rw [h.point_eq_iff]
  constructor
  · rintro ⟨hi, hj⟩
    rcases le_total (-(slopeOf p q).dy) (slopeOf p q).dx with hle | hle
    · have := h.wide hle
      omega
    · have := h.tall hle
      omega
  · rintro rfl
    exact h.steps_at_end (slopeOf_dx_nonneg p q) (slopeOf_dy_nonpos p q) hturns

/-- The points of a line are where its walker stands after each turn. -/
theorem linePoints_eq (p q : Point) :
    linePoints p q = (List.range (lineTurns p q + 1)).map fun n => (lineWalker p q n).point :=
  walk_eq_map fun _ hn heq => hn.ne ((lineWalker_point_eq_iff hn.le).mp heq)

theorem linePoints_length (p q : Point) : (linePoints p q).length = lineTurns p q + 1 := by
  simp [linePoints_eq]

theorem linePoints_getElem? {p q k : Point} {n : Nat} :
    (linePoints p q)[n]? = some k ↔ n ≤ lineTurns p q ∧ (lineWalker p q n).point = k := by
  simp [linePoints_eq, List.getElem?_eq_some_iff]

/-- Settles O33: the loop meets the end point after `max(|dx|, |dy|)` turns and not before. -/
theorem linePointsCountAndEnds : Obligations.LinePointsCountAndEnds := by
  intro p q
  refine ⟨by rw [linePoints_length, lineTurns_eq], ?_, ?_⟩
  · rw [List.head?_eq_getElem?, linePoints_getElem?]
    exact ⟨Nat.zero_le _, rfl⟩
  · rw [List.getLast?_eq_getElem?, linePoints_length, linePoints_getElem?]
    exact ⟨le_rfl, (lineWalker_point_eq_iff le_rfl).mpr rfl⟩

/-! ## The turns of the loop -/

/-- The error terms of the loop at each point of a line. -/
def lineErrors (p q : Point) : List Int := (List.range (lineTurns p q + 1)).map fun n => (lineWalker p q n).err

theorem lineErrors_getElem? {p q : Point} {e : Int} {n : Nat} :
    (lineErrors p q)[n]? = some e ↔ n ≤ lineTurns p q ∧ (lineWalker p q n).err = e := by
  simp [lineErrors, List.getElem?_eq_some_iff]

/-- A step of the loop moves by at most 1 in each coordinate (42_line_triangle.md R201 (b)). -/
theorem advance_neighbour (p q : Point) (k : Walker) :
    ((advance (slopeOf p q) k).x - k.x).natAbs ≤ 1 ∧ ((advance (slopeOf p q) k).y - k.y).natAbs ≤ 1 := by
  have hsx : (slopeOf p q).sx = if p.x < q.x then 1 else -1 := rfl
  have hsy : (slopeOf p q).sy = if p.y < q.y then 1 else -1 := rfl
  rw [advance_eq, hsx, hsy]
  constructor <;> dsimp only <;> split_ifs <;> omega

/-- Settles O34: the walker's points and error terms are those of the loop's turns. -/
theorem linePointsFollowTheLoop : Obligations.LinePointsFollowTheLoop := by
  refine ⟨fun p q => ⟨lineErrors p q, by simp [lineErrors, linePoints_length], ?_, ?_, fun n k e hk he => ?_⟩,
    fun p q n k k' hk hk' => ?_⟩
  · exact linePoints_getElem?.mpr ⟨Nat.zero_le _, rfl⟩
  · rw [sub_eq_add_neg, ← slopeOf_dx, ← slopeOf_dy]
    exact lineErrors_getElem?.mpr ⟨Nat.zero_le _, rfl⟩
  · obtain ⟨hn, rfl⟩ := linePoints_getElem?.mp hk
    obtain ⟨-, rfl⟩ := lineErrors_getElem?.mp he
    rw [lineWalker_point_eq_iff hn, ne_eq, lineWalker_point_eq_iff hn, linePoints_getElem?, lineErrors_getElem?,
      lineWalker_succ, advance_eq, slopeOf_dx, slopeOf_dy]
    exact ⟨fun h => by rw [linePoints_length, h], fun h => ⟨⟨by omega, rfl⟩, by omega, rfl⟩⟩
  · obtain ⟨-, rfl⟩ := linePoints_getElem?.mp hk
    obtain ⟨-, rfl⟩ := linePoints_getElem?.mp hk'
    rw [lineWalker_succ]
    exact advance_neighbour p q _

/-! ## Straight lines -/

/-- Steps of the sign of `b - a`, none where that is 0. -/
theorem steps_eq_sign {a b : Int} {i n : Nat} (h0 : b - a = 0 → i = 0) (h1 : b - a ≠ 0 → i = n) :
    a + i * (if a < b then 1 else -1) = a + n * (b - a).sign := by
  rcases lt_trichotomy a b with hlt | rfl | hgt
  · rw [if_pos hlt, h1 (by omega), Int.sign_eq_one_of_pos (by omega)]
  · rw [h0 (by omega)]
    simp
  · rw [if_neg (by omega), h1 (by omega), Int.sign_eq_neg_one_of_neg (by omega)]

/-- On a horizontal, vertical or 45-degree line every turn steps each coordinate in which the ends differ. -/
theorem lineWalker_point_of_straight {p q : Point} {n : Nat} (hn : n ≤ lineTurns p q)
    (hs : q.x - p.x = 0 ∨ q.y - p.y = 0 ∨ (q.x - p.x).natAbs = (q.y - p.y).natAbs) :
    (lineWalker p q n).point = ⟨p.x + n * (q.x - p.x).sign, p.y + n * (q.y - p.y).sign⟩ := by
  obtain ⟨i, j, h⟩ := lineWalker_onLine p q n
  have hdx := slopeOf_dx p q
  have hdy := slopeOf_dy p q
  have hmax : (n : Int) ≤ max (slopeOf p q).dx (-(slopeOf p q).dy) := by
    rw [← lineTurns_cast]
    exact Int.ofNat_le.mpr hn
  rw [Walker.point_eq_iff, h.x, h.y]
  exact ⟨steps_eq_sign (fun h0 => h.no_x_steps hmax (by omega) (slopeOf_dy_nonpos p q)) (fun h1 => h.wide (by omega)),
    steps_eq_sign (fun h0 => h.no_y_steps hmax (by omega) (slopeOf_dx_nonneg p q)) (fun h1 => h.tall (by omega))⟩

theorem mem_linePoints_of_straight {p q k : Point}
    (hs : q.x - p.x = 0 ∨ q.y - p.y = 0 ∨ (q.x - p.x).natAbs = (q.y - p.y).natAbs) :
    k ∈ linePoints p q ↔
      ∃ n ≤ lineTurns p q, k = ⟨p.x + n * (q.x - p.x).sign, p.y + n * (q.y - p.y).sign⟩ := by
  rw [List.mem_iff_getElem?]
  refine exists_congr fun n => linePoints_getElem?.trans (and_congr_right fun hn => ?_)
  rw [lineWalker_point_of_straight hn hs, eq_comm]

/-- The integers between two ends are those that steps of unit length reach from the first. -/
theorem exists_steps_iff {a b v : Int} :
    (∃ n ≤ (b - a).natAbs, v = a + n * (b - a).sign) ↔ min a b ≤ v ∧ v ≤ max a b := by
  rcases lt_trichotomy a b with hlt | rfl | hgt
  · rw [Int.sign_eq_one_of_pos (by omega)]
    exact ⟨fun ⟨n, hn, hv⟩ => by omega, fun hv => ⟨(v - a).toNat, by omega, by omega⟩⟩
  · rw [sub_self, Int.sign_zero]
    exact ⟨fun ⟨n, hn, hv⟩ => by omega, fun hv => ⟨0, by omega, by omega⟩⟩
  · rw [Int.sign_eq_neg_one_of_neg (by omega)]
    exact ⟨fun ⟨n, hn, hv⟩ => by omega, fun hv => ⟨(a - v).toNat, by omega, by omega⟩⟩

/-- Settles O35: the walker of a straight line runs through its segment. -/
theorem straightLinesVisitTheWholeSegment : Obligations.StraightLinesVisitTheWholeSegment := by
  refine ⟨fun x0 x1 y k => ?_, fun x y0 y1 k => ?_, fun p q k hdiag => ?_⟩
  · rw [mem_linePoints_of_straight (.inr (.inl (sub_self y))), lineTurns_eq, ← exists_steps_iff]
    obtain ⟨kx, ky⟩ := k
    simp only [sub_self, Int.sign_zero, mul_zero, add_zero, Int.natAbs_zero, Nat.max_zero, Point.mk.injEq]
    exact ⟨fun ⟨n, hn, hx, hy⟩ => ⟨hy, n, hn, hx⟩, fun ⟨hy, n, hn, hx⟩ => ⟨n, hn, hx, hy⟩⟩
  · rw [mem_linePoints_of_straight (.inl (sub_self x)), lineTurns_eq, ← exists_steps_iff]
    obtain ⟨kx, ky⟩ := k
    simp only [sub_self, Int.sign_zero, mul_zero, add_zero, Int.natAbs_zero, Nat.zero_max, Point.mk.injEq]
    exact ⟨fun ⟨n, hn, hx, hy⟩ => ⟨hx, n, hn, hy⟩, fun ⟨hx, n, hn, hy⟩ => ⟨n, hn, hx, hy⟩⟩
  · rw [mem_linePoints_of_straight (.inr (.inr hdiag)), lineTurns_eq, ← hdiag, max_self]

/-! ## The triangle -/

/-- The strokes of a triangle are painted (42_line_triangle.md R203). -/
theorem painted_drawTri {s : State} (hs : Inv s) (L : Layer) (a b c : Point) (t : Nat) (col : Color) :
    Painted s ((s.drawTri L a b c t col).setErr .ok) L col fun px py =>
      t ≠ 0 ∧ ¬ (a = b ∧ b = c)
        ∧ inStroke (if s.cfg.squareHalf = .upperLeft then (t : Int) / 2 else ((t : Int) - 1) / 2) a b c t px py := by
  rw [State.drawTri_eq_paint]
  refine painted_paint hs (fun j => ?_) col
  rw [mem_triIndices]
  refine exists₂_congr fun px py => and_congr_right fun _ => and_congr_left fun _ => and_congr_right fun ht => ?_
  rw [squareHalf_cast _ ht]

/-- Settles O28: the indices that a triangle writes are those of its in-bounds stroke pixels, of Layer1. -/
theorem drawTriPaintsTheStrokedEdges : Obligations.DrawTriPaintsTheStrokedEdges := by
  refine ⟨fun s a b c t col hs hr => ⟨_, exec_storage_ready rfl rfl hr, painted_drawTri hs .layer1 a b c t col⟩,
    fun s a b c t col hr => exec_storage_notReady rfl rfl hr, fun q hcw => ?_⟩
  simp only [← s16_eq_toInt]
  exact decode_of_cw (op := 0x0A#8) (l := 0#1) hcw

end Sys2Proof.Machine

/-! # Proofs about the layer adapter

The obligations of 43_layer_adapter.md: the rectangle and the triangle drawn into the layer that the command names. -/

namespace Sys2Proof.Machine

/-- Settles O27: a rectangle paints its in-bounds band pixels into whichever layer it is given. -/
theorem drawRectLayerPaintsTheChosenLayer : Obligations.DrawRectLayerPaintsTheChosenLayer := by
  refine ⟨fun s L x y w h t c hs hr => ⟨_, exec_storage_ready rfl rfl hr, painted_drawRect hs L x y w h t c⟩,
    fun s L x y w h t c hr => exec_storage_notReady rfl rfl hr, fun q L hcw => ?_⟩
  rw [← s16_eq_toInt, ← s16_eq_toInt, decode_of_layer_cw (op := 0x09#8) rfl rfl hcw]
  cases L <;> rfl

/-- Settles O29: a triangle paints its in-bounds stroke pixels into whichever layer it is given. -/
theorem drawTriLayerPaintsTheChosenLayer : Obligations.DrawTriLayerPaintsTheChosenLayer := by
  refine ⟨fun s L a b c t col hs hr => ⟨_, exec_storage_ready rfl rfl hr, painted_drawTri hs L a b c t col⟩,
    fun s L a b c t col hr => exec_storage_notReady rfl rfl hr, fun q L hcw => ?_⟩
  simp only [← s16_eq_toInt]
  rw [decode_of_layer_cw (op := 0x0B#8) rfl rfl hcw]
  cases L <;> rfl

end Sys2Proof.Machine

/-! # Proofs about the colours and the snapshot

The obligations of 44_color_snapshot.md: the conversions between RGB565 and RGB888, the snapshot stream and the host's
read-out of a pixel. -/

namespace Sys2Proof.Machine

/-! ## The channels of a colour -/

theorem red5_toNat (c : Color) : (red5 c).toNat = c.toNat / 2048 := by
  have hlt : c.toNat / 2048 < 32 := Nat.div_lt_of_lt_mul c.isLt
  rw [red5, BitVec.extractLsb'_toNat, Nat.shiftRight_eq_div_pow]
  exact Nat.mod_eq_of_lt hlt

theorem green6_toNat (c : Color) : (green6 c).toNat = c.toNat / 32 % 64 := by
  rw [green6, BitVec.extractLsb'_toNat, Nat.shiftRight_eq_div_pow]

theorem blue5_toNat (c : Color) : (blue5 c).toNat = c.toNat % 32 := BitVec.extractLsb'_toNat ..

/-! ## The conversions as numbers -/

/-- A shifted field joined with one that fits below it is their sum. -/
theorem shiftLeft_or_toNat {w i : Nat} {a b : BitVec w} (ha : a.toNat * 2 ^ i < 2 ^ w) (hb : b.toNat < 2 ^ i) :
    (a <<< i ||| b).toNat = a.toNat * 2 ^ i + b.toNat := by
  rw [BitVec.toNat_or, BitVec.toNat_shiftLeft, Nat.shiftLeft_eq, Nat.mod_eq_of_lt ha, ← Nat.shiftLeft_eq,
    Nat.shiftLeft_add_eq_or_of_lt hb]

theorem zeroExtend_ushiftRight_toNat (v : Byte) (k : Nat) : ((v >>> k).zeroExtend 16).toNat = v.toNat / 2 ^ k := by
  rw [BitVec.toNat_setWidth_of_le (by decide), BitVec.toNat_ushiftRight, Nat.shiftRight_eq_div_pow]

/-- The three channels do not overlap (44_color_snapshot.md R251). -/
theorem fromRGB888_toNat (r g b : Byte) :
    (fromRGB888 r g b).toNat = r.toNat / 8 * 2048 + g.toNat / 4 * 32 + b.toNat / 8 := by
  have hr : ((r >>> 3).zeroExtend 16).toNat = r.toNat / 8 := zeroExtend_ushiftRight_toNat r 3
  have hg : ((g >>> 2).zeroExtend 16).toNat = g.toNat / 4 := zeroExtend_ushiftRight_toNat g 2
  have hb : ((b >>> 3).zeroExtend 16).toNat = b.toNat / 8 := zeroExtend_ushiftRight_toNat b 3
  have hlow := shiftLeft_or_toNat (i := 5) (a := (g >>> 2).zeroExtend 16) (b := (b >>> 3).zeroExtend 16)
    (by omega) (by omega)
  rw [fromRGB888, BitVec.or_assoc, shiftLeft_or_toNat (by omega) (by omega)]
  omega

/-- The high bits of an `n`-bit channel stand below it to fill the byte (44_color_snapshot.md R252). -/
theorem replicate_high_bits_toNat {n i j : Nat} (v : BitVec n) (hi : n + i = 8) (hj : n ≤ i + j) :
    (v.zeroExtend 8 <<< i ||| v.zeroExtend 8 >>> j).toNat = v.toNat * 2 ^ i + v.toNat / 2 ^ j := by
  have hv : (v.zeroExtend 8).toNat = v.toNat := BitVec.toNat_setWidth_of_le (by omega)
  have hhigh : (v.zeroExtend 8 >>> j).toNat = v.toNat / 2 ^ j := by
    rw [BitVec.toNat_ushiftRight, hv, Nat.shiftRight_eq_div_pow]
  rw [shiftLeft_or_toNat, hv, hhigh]
  · rw [hv, ← hi, Nat.pow_add]
    exact Nat.mul_lt_mul_of_pos_right v.isLt (Nat.two_pow_pos i)
  · rw [hhigh]
    refine Nat.div_lt_of_lt_mul (v.isLt.trans_le ?_)
    rw [← Nat.pow_add, Nat.add_comm]
    exact Nat.pow_le_pow_right Nat.two_pos hj

theorem expand5_toNat (v : BitVec 5) : (expand5 v).toNat = v.toNat * 8 + v.toNat / 4 :=
  replicate_high_bits_toNat v (by decide) (by decide)

theorem expand6_toNat (v : BitVec 6) : (expand6 v).toNat = v.toNat * 4 + v.toNat / 16 :=
  replicate_high_bits_toNat v (by decide) (by decide)

/-- Settles O56: the channels are disjoint fields, so a colour is the sum of its shifted channels. -/
theorem colourConversionsAreTheirFormulas : Obligations.ColourConversionsAreTheirFormulas := by
  refine ⟨fromRGB888_toNat, fun c => ⟨?_, ?_, ?_⟩⟩
  · exact red5_toNat c ▸ expand5_toNat (red5 c)
  · exact green6_toNat c ▸ expand6_toNat (green6 c)
  · exact blue5_toNat c ▸ expand5_toNat (blue5 c)

/-! ## The round trip -/

theorem RGB888.eq_iff_toNat {p : RGB888} {r g b : Byte} :
    p = ⟨r, g, b⟩ ↔ p.r.toNat = r.toNat ∧ p.g.toNat = g.toNat ∧ p.b.toNat = b.toNat := by
  obtain ⟨r', g', b'⟩ := p
  simp only [RGB888.mk.injEq, BitVec.toNat_inj]

/-- The channels of a constructed colour are the high bits of the three bytes. -/
theorem channels_fromRGB888 (r g b : Byte) :
    (red5 (fromRGB888 r g b)).toNat = r.toNat / 8 ∧ (green6 (fromRGB888 r g b)).toNat = g.toNat / 4
      ∧ (blue5 (fromRGB888 r g b)).toNat = b.toNat / 8 := by
  rw [red5_toNat, green6_toNat, blue5_toNat, fromRGB888_toNat]
  have hg := g.isLt
  have hb := b.isLt
  refine ⟨?_, ?_, ?_⟩ <;> omega

/-- Settles O57: the round trip puts the high bits of each channel in the place of its low bits. -/
theorem colourRoundTripIsExactWhenLowBitsReplicate : Obligations.ColourRoundTripIsExactWhenLowBitsReplicate := by
  intro r g b
  obtain ⟨hr, hg, hb⟩ := channels_fromRGB888 r g b
  rw [RGB888.eq_iff_toNat, toRGB888, expand5_toNat, expand6_toNat, expand5_toNat, hr, hg, hb]
  refine and_congr ?_ (and_congr ?_ ?_) <;> omega

/-! ## Decimal numerals -/

theorem digitByte_toNat {d : Nat} (h : d < 10) : (digitByte d).toNat = 0x30 + d :=
  Nat.mod_eq_of_lt (by omega)

theorem numeralValue_concat (bs : List Byte) (b : Byte) :
    numeralValue (bs ++ [b]) = 10 * numeralValue bs + (b.toNat - 0x30) := List.foldl_append ..

/-- One digit is a numeral. -/
theorem isNumeral_digit {d : Nat} (h : d < 10) : IsNumeral [digitByte d] d := by
  have hd := digitByte_toNat h
  refine ⟨by simp, ?_, ?_, ?_⟩
  · simp only [List.mem_singleton, forall_eq]
    omega
  · simp [numeralValue, hd]
  · intro h0
    rw [Option.some.inj h0]

/-- A numeral of a positive number, and one digit more. -/
theorem IsNumeral.concat {bs : List Byte} {m d : Nat} (hbs : IsNumeral bs m) (hm : 0 < m) (h : d < 10) :
    IsNumeral (bs ++ [digitByte d]) (10 * m + d) := by
  obtain ⟨hne, hdigits, hvalue, hlead⟩ := hbs
  have hd := digitByte_toNat h
  refine ⟨by simp, fun b hb => ?_, ?_, fun h0 => ?_⟩
  · rcases List.mem_append.mp hb with hb | hb
    · exact hdigits b hb
    · rw [List.mem_singleton.mp hb, hd]
      omega
  · rw [numeralValue_concat, hvalue, hd, Nat.add_sub_cancel_left]
  · rw [List.head?_append_of_ne_nil _ hne] at h0
    rw [hlead h0] at hvalue
    exact absurd hvalue hm.ne

/-- With fuel enough, `decimalFrom` puts a numeral of `n` before `rest`. -/
theorem exists_isNumeral_decimalFrom {fuel n : Nat} (h : n < fuel) (rest : List Byte) :
    ∃ ds, IsNumeral ds n ∧ decimalFrom fuel n rest = ds ++ rest := by
  induction fuel generalizing n rest with
  | zero => omega
  | succ k ih =>
    by_cases hn : n < 10
    · exact ⟨_, isNumeral_digit hn, if_pos hn⟩
    · obtain ⟨ds, hds, heq⟩ := ih (show n / 10 < k by omega) (digitByte (n % 10) :: rest)
      have hconcat := hds.concat (d := n % 10) (by omega) (by omega)
      rw [Nat.div_add_mod] at hconcat
      refine ⟨_, hconcat, ?_⟩
      rw [List.append_assoc, List.singleton_append, ← heq]
      exact if_neg hn

theorem isNumeral_decimal (n : Nat) : IsNumeral (decimal n) n := by
  obtain ⟨ds, hds, heq⟩ := exists_isNumeral_decimalFrom n.lt_succ_self []
  rw [decimal, heq, List.append_nil]
  exact hds

/-! ## The snapshot -/

/-- The header with the numeral of the channel maximum written out (44_color_snapshot.md R253). -/
theorem ppmHeader_eq (W H : Nat) :
    ppmHeader W H =
      [0x50, 0x36, 0x0A] ++ decimal W ++ [0x20] ++ decimal H ++ [0x0A, 0x32, 0x35, 0x35, 0x0A] := by
  have h255 : decimal 255 = [0x32, 0x35, 0x35] := by decide
  simp [ppmHeader, h255]

theorem rasterBytes_length (m : Memory) (n : Nat) : (rasterBytes m n).length = 3 * n := by
  simp [rasterBytes, List.length_flatMap, pixelBytes, Nat.mul_comm]

/-- The bytes of pixel `k` follow those of the `k` pixels before it. -/
theorem rasterBytes_eq_append (m : Memory) {k n : Nat} (h : k < n) :
    ∃ rest, rasterBytes m n = rasterBytes m k ++ (pixelBytes (Memory.read m k) ++ rest) := by
  obtain ⟨j, rfl⟩ := Nat.exists_eq_add_of_le h
  simp [rasterBytes, List.range_add, List.range_succ]

theorem take_drop_rasterBytes (m : Memory) {k n : Nat} (h : k < n) :
    ((rasterBytes m n).drop (3 * k)).take 3 = pixelBytes (Memory.read m k) := by
  obtain ⟨rest, heq⟩ := rasterBytes_eq_append m h
  rw [heq, List.drop_left' (rasterBytes_length m k)]
  rfl

/-- Settles O58: the header's numerals are those of W and H, and every pixel is three bytes after it. -/
theorem snapshotHoldsEveryPixelAtItsOffset : Obligations.SnapshotHoldsEveryPixelAtItsOffset := by
  intro s
  refine ⟨?_, List.take_left, ⟨_, _, isNumeral_decimal s.W, isNumeral_decimal s.H, ppmHeader_eq s.W s.H⟩,
    fun x y hx hy => ?_⟩
  · rw [State.snapshot, List.length_append, rasterBytes_length]
  · have hlt : y * s.W + x < s.W * s.H := by
      rw [← idx_natCast]
      exact idx_lt (inBounds_natCast.mpr ⟨hx, hy⟩)
    rw [State.snapshot, List.drop_length_add_append]
    exact take_drop_rasterBytes s.fb1 hlt

/-! ## Reading a pixel out -/

/-- A register read is performed at once while the engine is Idle. -/
theorem step_rd {s : State} {r : Reg} {rest : List Input} (he : s.eng = .idle)
    (hin : s.inputs = rd s.cfg.base r :: rest) : step s = .next ((s.setInputs rest).hostRead r.offset) := by
  obtain ⟨hturn, hspend⟩ := State.turn_idle he
  rw [step_host hturn hin, hspend]
  exact performAccess_read (s := s.setInputs rest) r.offset_lt r.offset_aligned

/-- The coordinates of a pixel of the display fit the fields of a GET. -/
theorem getPixel_wellFormed {s : State} {x y : Nat} (hx : x < s.W) (hy : y < s.H) :
    (Instr.getPixel x y).wellFormed = true :=
  Bool.and_eq_true_iff.mpr ⟨decide_eq_true (hx.trans s.width.isLt), decide_eq_true (hy.trans s.height.isLt)⟩

/-- Settles O59: GET_PIXEL and its WAIT leave the pixel in RESULT under every schedule, where the read finds it. -/
theorem readOutReturnsTheStoredPixel : Obligations.ReadOutReturnsTheStoredPixel := by
  intro s x y rest _ hr he hx hy hin
  rw [readOutPixel, List.append_assoc] at hin
  obtain ⟨n, t, u, hrun, hexec, hdev, htin, -⟩ :=
    assembledCommandsTakeEffect s (.getPixel x y) (rd s.cfg.base .result :: rest) (getPixel_wellFormed hx hy) he hin
  cases (readPixel_inBounds (s := s.withOperands (.getPixel x y)) .layer1 hr hx hy).symm.trans hexec
  have hidle : t.eng = .idle := (State.eng_eq_of_device hdev).trans he
  have hcfg : t.cfg = s.cfg := (congrArg State.cfg hdev :)
  have hvalid : t.resValid = true := (congrArg State.resValid hdev :)
  have hcolor : t.resColor = Memory.read s.fb1 (y * s.W + x) := (congrArg State.resColor hdev :)
  obtain ⟨hc, hv, -⟩ := resultFields_readReg (s := t.setInputs rest) hidle (Config.draw t.draws)
  exact ⟨n + 1, _, _, (core_run_add hrun 1).trans (core_run_one (step_rd hidle (hcfg ▸ htin))), rfl, hidle, rfl,
    hv.trans hvalid, hc.trans hcolor, (congrArg State.fb1 hdev :), (congrArg State.fb2 hdev :),
    (congrArg State.sizeWord hdev :)⟩

end Sys2Proof.Machine

/-! # Proofs about errors

The obligations of 60_exceptions.md: the code each completion records, and what sets and clears the overrun flag. -/

namespace Sys2Proof.Machine

/-! ## The code a completion records -/

/-- The code of an INIT, by the first of its checks that fails (60_exceptions.md R272). -/
theorem execInit_err {w h f : Nat} {o : Orientation} {s t : State} (ht : execInit w h o f s = .next t) :
    t.err = if w = 0 ∨ h = 0 then 1#4 else if f ≠ 0 then 2#4 else if s.cfg.maxPixels < w * h then 3#4 else 0#4 := by
  rcases execInit_cases ht with
    ⟨hdim, rfl⟩ | ⟨hw, hh, hf, rfl⟩ | ⟨hw, hh, hf, hcap, rfl⟩ | ⟨hw, hh, hf, hcap, rfl⟩
  · exact (if_pos hdim).symm
  · rw [if_neg (not_or.mpr ⟨hw, hh⟩), if_pos hf]
    rfl
  · rw [if_neg (not_or.mpr ⟨hw, hh⟩), if_neg (not_not.mpr hf), if_pos hcap]
    rfl
  · rw [if_neg (not_or.mpr ⟨hw, hh⟩), if_neg (not_not.mpr hf), if_neg (Nat.not_lt.mpr hcap)]
    rfl

/-- The code of every other command, by whether there is a display (40_display.md R130). -/
theorem exec_err_of_not_init {i : Instr} {s t : State} (h : exec i s = .next t) (hinit : isInit i = false) :
    t.err = if s.ready = true then 0#4 else 4#4 := by
  rcases exec_cases h with ⟨_, _, _, _, rfl, -⟩ | ⟨_, _, _, -, -, hget⟩ | ⟨-, -, hr, rfl⟩ | ⟨-, -, hr, rfl⟩
  · cases hinit
  · rcases readPixel_cases hget with ⟨hr, rfl⟩ | ⟨hr, rfl⟩ <;> rw [hr] <;> rfl
  · rw [hr]
    rfl
  · rw [hr]
    rfl

/-- Settles O40: the codes that the two rules of a command's code can give, and the one of an illegal word. -/
theorem codesEachCommandCompletesWith : Obligations.CodesEachCommandCompletesWith := by
  refine ⟨fun i s t h => ⟨fun hinit => ?_, fun hinit => ?_⟩, fun q why s t hd h => ?_⟩
  · obtain ⟨w, hh, o, f, rfl, -⟩ := exec_init hinit
    rw [execInit_err h]
    split_ifs <;> simp
  · rw [exec_err_of_not_init h hinit]
    split <;> simp
  · cases (complete_illegal hd s).symm.trans h
    rfl

/-- Settles O41: an illegal word has its own code, and a command the code of its execution. -/
theorem statusCodePriority : Obligations.StatusCodePriority := by
  intro q s t h
  rcases complete_cases h with ⟨why, hd, rfl⟩ | ⟨i, u, hd, hu, rfl⟩
  · rw [hd]
    rfl
  · rw [hd]
    cases i with
    | init w h o f => exact (execInit_err hu :)
    | clear | clearLayer | getPixel | getPixelLayer | setPixel | setPixelLayer | drawRect | drawRectLayer | drawTri
    | drawTriLayer => exact (exec_err_of_not_init hu rfl :)

/-! ## The overrun flag -/

/-- No completion touches OVR. -/
theorem complete_ovr {q : Latch} {s t : State} (h : complete q s = .next t) : t.ovr = s.ovr := by
  rcases complete_cases h with ⟨-, -, rfl⟩ | ⟨i, u, -, hu, rfl⟩
  · rfl
  · exact (congrArg State.ovr (exec_frame hu) :)

theorem poll_ovr (rest : List Input) (s : State) : (poll rest s).ovr = s.ovr := by
  cases hb : s.busy with
  | true => rw [poll_busy hb, State.hostRead_ovr]
  | false => rw [poll_idle hb, State.hostRead_ovr]

theorem State.writeStatus_of_bit2_clear {v : Word} (hv : v.getLsbD 2 = false) (s : State) : s.writeStatus v = s :=
  if_neg (Bool.eq_false_iff.mp hv)

theorem State.issue_keeps_ovr {s : State} (hs : s.ovr = true) (v : Word) : (s.issue v).ovr = true := by
  cases hb : s.busy with
  | true => rw [State.issue_busy hb]
  | false => rw [State.issue_idle (State.not_busy_iff.mp hb), hs]

/-- Only a write of STATUS with bit 2 set and a write of CTRL with bit 0 set clear OVR. -/
theorem State.writeReg_ovr_cases {s : State} (hs : s.ovr = true) (r : Reg) (v : Word) :
    (s.writeReg r v).ovr = true ∨ (r = .status ∧ v.getLsbD 2 = true) ∨ (r = .ctrl ∧ v.getLsbD 0 = true) := by
  cases r with
  | status =>
    cases hv : v.getLsbD 2 with
    | true => exact .inr (.inl ⟨rfl, rfl⟩)
    | false => exact .inl ((congrArg State.ovr (State.writeStatus_of_bit2_clear hv s)).trans hs)
  | ctrl =>
    cases hv : v.getLsbD 0 with
    | true => exact .inr (.inr ⟨rfl, rfl⟩)
    | false => exact .inl ((congrArg State.ovr (State.writeCtrl_of_bit0_clear hv s)).trans hs)
  | cmd => exact .inl (State.issue_keeps_ovr hs v)
  | size | info | arg0 | arg1 | arg2 | arg3 | result | reserved => exact .inl hs

/-- A register that is not a reserved word stands at its own offset only (10_state.md R33). -/
theorem eq_offset_of_regAt {off : Nat} {r : Reg} (h : regAt off = r) (hr : r ≠ .reserved) : off = r.offset := by
  unfold regAt at h
  split at h <;> subst h
  case h_11 => exact absurd rfl hr
  all_goals rfl

/-- An input leaves OVR set, or is a write of STATUS with bit 2 set or a reset. -/
theorem performInput_ovr_cases {x : Input} {rest : List Input} {s t : State} (h : performInput x rest s = .next t)
    (hs : s.ovr = true) : t.ovr = true ∨ clearsOverrun s.cfg x = true ∨ resets s.cfg x = true := by
  cases x with
  | access a =>
    rcases performAccess_cases h with ⟨off, -, -, -, rfl⟩ | ⟨off, v, -, -, rfl, rfl⟩
    · exact .inl hs
    · rcases State.writeReg_ovr_cases (s := { s with inputs := rest }) hs (regAt off) v with
        hkeep | ⟨hreg, hv⟩ | ⟨hreg, hv⟩
      · exact .inl hkeep
      · obtain rfl := eq_offset_of_regAt hreg (by decide)
        exact .inr (.inl (by simp only [clearsOverrun, Reg.offset, hv, decide_true, Bool.and_self]))
      · obtain rfl := eq_zero_of_regAt_ctrl hreg
        exact .inr (.inr (by simp only [resets, hv, Nat.add_zero, decide_true, Bool.and_self]))
  | wait =>
    cases h
    exact .inl ((poll_ovr rest s).trans hs)
  | hardReset => exact .inr (.inr rfl)
  | accessInReset a => cases h

/-- All that a step can do to OVR once it is set: leave it so, or perform an input that clears it. -/
theorem step_ovr_cases {s t : State} (h : step s = .next t) (hs : s.ovr = true) :
    t.ovr = true ∨
      ∃ x rest, s.turn = .host ∧ s.inputs = x :: rest ∧ (clearsOverrun s.cfg x = true ∨ resets s.cfg x = true) := by
  rcases step_cases h with ⟨q, -, -, hc⟩ | ⟨x, rest, hturn, hin, hp⟩ | ⟨-, -, rfl⟩
  · exact .inl ((complete_ovr hc).trans (s.spendTurn_ovr.trans hs))
  · rcases performInput_ovr_cases hp (s.spendTurn_ovr.trans hs) with hkeep | hclear
    · exact .inl hkeep
    · rw [State.spendTurn_cfg] at hclear
      exact .inr ⟨x, rest, hturn, hin, hclear⟩
  · exact .inl hs

/-- Settles O11: a CMD write while busy is `State.issue`, and a step keeps OVR set or performs an input that clears
it. -/
theorem overrunStaysUntilClearedOrReset : Obligations.OverrunStaysUntilClearedOrReset := by
  refine ⟨fun s v hb => ?_, fun s t h hs ht => ?_⟩
  · rw [performAccess_write v (by decide) rfl]
    exact congrArg Host.Outcome.next (State.issue_busy hb v)
  · exact (step_ovr_cases h hs).resolve_left (Bool.eq_false_iff.mp ht)

end Sys2Proof.Machine

/-! # Proofs about resets and hazards

The obligations of 70_reset_and_hazards.md: what a device without a display does and shows, what reads return while a
command is held, and how a host program ends. -/

namespace Sys2Proof.Machine

/-! ## A device without a display -/

/-- Without a display a command other than INIT raises NotInitialized, and a GET makes RESULT 0 (40_display.md R130,
R151). -/
theorem exec_notReady {i : Instr} {s : State} (hr : s.ready = false) (hinit : isInit i = false) :
    exec i s = .next { s with
      err := 4#4
      resValid := if isGet i = true then false else s.resValid
      resColor := if isGet i = true then 0#16 else s.resColor } := by
  cases hget : isGet i with
  | true =>
    obtain ⟨L, x, y, he⟩ := exec_get hget
    rw [he]
    exact readPixel_notReady L hr
  | false => exact exec_storage_notReady hinit hget hr

/-- Only an INIT that succeeds makes a display. -/
theorem exec_makes_display {i : Instr} {s t : State} (h : exec i s = .next t) (hs : s.ready = false)
    (ht : t.ready = true) : ∃ w hh o, i = .init w hh o 0 ∧ t.err = 0#4 := by
  cases hinit : isInit i with
  | false =>
    cases (exec_notReady hs hinit).symm.trans h
    exact absurd (hs.symm.trans ht) (by decide)
  | true =>
    obtain ⟨w, hh, o, f, rfl, -⟩ := exec_init hinit
    have hfail (e : ErrCode) : (s.setErr e).ready ≠ true := by simp [hs]
    rcases execInit_cases h with ⟨-, rfl⟩ | ⟨-, -, -, rfl⟩ | ⟨-, -, -, -, rfl⟩ | ⟨-, -, rfl, -, rfl⟩
    · exact absurd ht (hfail _)
    · exact absurd ht (hfail _)
    · exact absurd ht (hfail _)
    · exact ⟨w, hh, o, rfl, rfl⟩

theorem complete_makes_display {q : Latch} {s t : State} (h : complete q s = .next t) (hs : s.ready = false)
    (ht : t.ready = true) : ∃ w hh o, decode q = .legal (.init w hh o 0) ∧ t.err = 0#4 := by
  rcases complete_cases h with ⟨-, -, rfl⟩ | ⟨i, u, hd, hu, rfl⟩
  · exact absurd (hs.symm.trans ht) (by decide)
  · obtain ⟨w, hh, o, rfl, herr⟩ := exec_makes_display hu hs ht
    exact ⟨w, hh, o, hd, herr⟩

theorem ready_eq_of_displayPart {s t : State} (h : t.displayPart = s.displayPart) : t.ready = s.ready :=
  (congrArg State.ready h :)

/-- Settles O38: every other command has the frame of R130, and of the steps that touch the display part only a
completion can set READY. -/
theorem withoutADisplayOnlyInitRuns : Obligations.WithoutADisplayOnlyInitRuns := by
  refine ⟨rfl, fun i s hr hinit => exec_notReady hr hinit, fun s t h hs ht => ?_⟩
  rcases step_displayPart_cases h with ⟨q, hturn, heng, hc⟩ | hd | ⟨_, _, u, -, -, -, -, rfl⟩
  · obtain ⟨w, hh, o, hinit⟩ := complete_makes_display hc (s.spendTurn_ready.trans hs) ht
    exact ⟨q, w, hh, o, hturn, heng, hinit⟩
  · exact absurd (hs.symm.trans ((ready_eq_of_displayPart hd).symm.trans ht)) (by decide)
  · exact absurd ht Bool.false_ne_true

/-! ## Hidden pixels

Two states that differ at most in hidden pixels are the same one, or have no display and differ in their layers; so each
operation is looked at once, on a state without a display whose layers are replaced. -/

/-- Both layers replaced. -/
def State.withLayers (m1 m2 : Memory) (s : State) : State := { s with fb1 := m1, fb2 := m2 }

theorem State.spendTurn_withLayers (m1 m2 : Memory) (s : State) :
    (s.withLayers m1 m2).spendTurn = s.spendTurn.withLayers m1 m2 :=
  (apply_ite (State.withLayers m1 m2) (s.contended = true) { s with sched := s.sched.tail } s).symm

theorem SameButHiddenPixels.refl (s : State) : SameButHiddenPixels s s := ⟨rfl, fun _ => rfl⟩

/-- Without a display the layers are all that may differ. -/
theorem SameButHiddenPixels.of_notReady {s s' : State} (hr : s.ready = false)
    (h : s' = s.withLayers s'.fb1 s'.fb2) : SameButHiddenPixels s s' :=
  ⟨h, fun hr' => absurd (hr.symm.trans hr') (by decide)⟩

theorem SameButHiddenPixels.eq_or_withLayers {s s' : State} (h : SameButHiddenPixels s s') :
    s' = s ∨ (s.ready = false ∧ ∃ m1 m2, s' = s.withLayers m1 m2) := by
  obtain ⟨hlayers, heq⟩ := h
  cases hr : s.ready with
  | true => exact .inl (heq hr)
  | false => exact .inr ⟨rfl, s'.fb1, s'.fb2, hlayers⟩

/-- `r'` answers as `r` does, up to hidden pixels. -/
def AnswersAlike (r r' : Result) : Prop :=
  (∀ t, r = .next t → ∃ t', r' = .next t' ∧ SameButHiddenPixels t t') ∧ ∀ why, r = .refused why → r' = .refused why

theorem AnswersAlike.refl (r : Result) : AnswersAlike r r :=
  ⟨fun t h => ⟨t, h, .refl t⟩, fun _ h => h⟩

theorem AnswersAlike.next {t t' : State} (h : SameButHiddenPixels t t') : AnswersAlike (.next t) (.next t') :=
  ⟨fun u hu => ⟨t', rfl, by cases hu; exact h⟩, fun _ hw => by cases hw⟩

theorem SameButHiddenPixels.setIdle {t t' : State} (h : SameButHiddenPixels t t') :
    SameButHiddenPixels { t with eng := .idle } { t' with eng := .idle } := by
  rcases h.eq_or_withLayers with rfl | ⟨hr, m1, m2, rfl⟩
  · exact .refl _
  · exact .of_notReady hr rfl

section Hidden

variable {s : State} (hr : s.ready = false) (m1 m2 : Memory)
include hr

theorem observe_withLayers : (s.withLayers m1 m2).observe = s.observe := by
  have hr' : (s.withLayers m1 m2).ready = false := hr
  rw [State.observe, State.observe, hr, hr']
  rfl

/-- INIT does not look at the layers, and the display it makes is the same whatever they held (40_display.md R134). -/
theorem execInit_withLayers (w h : Nat) (o : Orientation) (f : Nat) :
    AnswersAlike (execInit w h o f s) (execInit w h o f (s.withLayers m1 m2)) := by
  have hraise (e : ErrCode) : AnswersAlike (raise e s) (raise e (s.withLayers m1 m2)) :=
    .next (.of_notReady hr rfl)
  rw [execInit, execInit, show (s.withLayers m1 m2).cfg = s.cfg from rfl]
  split_ifs
  · exact hraise .invalidDimensions
  · exact hraise .unsupportedPixelFormat
  · exact hraise .capacityExceeded
  · exact .refl _

theorem exec_withLayers (i : Instr) : AnswersAlike (exec i s) (exec i (s.withLayers m1 m2)) := by
  cases hinit : isInit i with
  | true =>
    obtain ⟨w, h, o, f, -, he⟩ := exec_init hinit
    rw [he]
    exact execInit_withLayers hr m1 m2 w h o f
  | false =>
    rw [exec_notReady hr hinit, exec_notReady (s := s.withLayers m1 m2) hr hinit]
    exact .next (.of_notReady hr rfl)

theorem complete_withLayers (q : Latch) : AnswersAlike (complete q s) (complete q (s.withLayers m1 m2)) := by
  cases hd : decode q with
  | illegal why =>
    rw [complete_illegal hd, complete_illegal hd]
    exact .next (.of_notReady hr rfl)
  | legal i =>
    obtain ⟨u, hu⟩ := exec_completes i s
    obtain ⟨u', hu', hsame⟩ := (exec_withLayers hr m1 m2 i).1 u hu
    simp only [complete, hd, hu, hu', retire]
    exact .next hsame.setIdle

theorem writeReg_withLayers (r : Reg) (v : Word) :
    SameButHiddenPixels (s.writeReg r v) ((s.withLayers m1 m2).writeReg r v) := by
  cases r with
  | ctrl =>
    change SameButHiddenPixels (s.writeCtrl v) ((s.withLayers m1 m2).writeCtrl v)
    cases hv : v.getLsbD 0 with
    | true =>
      rw [State.writeCtrl_reset hv, State.writeCtrl_reset hv]
      exact .refl _
    | false =>
      rw [State.writeCtrl_of_bit0_clear hv, State.writeCtrl_of_bit0_clear hv]
      exact .of_notReady hr rfl
  | status =>
    change SameButHiddenPixels (s.writeStatus v) ((s.withLayers m1 m2).writeStatus v)
    unfold State.writeStatus
    split
    · exact .of_notReady hr rfl
    · exact .of_notReady hr rfl
  | cmd =>
    change SameButHiddenPixels (s.issue v) ((s.withLayers m1 m2).issue v)
    cases hb : s.busy with
    | true =>
      rw [State.issue_busy hb, State.issue_busy (s := s.withLayers m1 m2) hb]
      exact .of_notReady hr rfl
    | false =>
      have hidle := State.not_busy_iff.mp hb
      rw [State.issue_idle hidle, State.issue_idle (s := s.withLayers m1 m2) hidle]
      exact .of_notReady hr rfl
  | size | info | arg0 | arg1 | arg2 | arg3 | result | reserved => exact .of_notReady hr rfl

theorem performAccess_withLayers (a : Access) :
    AnswersAlike (performAccess a s) (performAccess a (s.withLayers m1 m2)) := by
  have hcfg : (s.withLayers m1 m2).cfg = s.cfg := rfl
  cases a with
  | read address w =>
    simp only [performAccess, hcfg]
    cases locate s.cfg address w with
    | offset off => exact .next (.of_notReady hr rfl)
    | refused why => exact .refl _
  | write address w v =>
    simp only [performAccess, hcfg]
    cases locate s.cfg address w with
    | offset off => exact .next (writeReg_withLayers hr m1 m2 (regAt off) v)
    | refused why => exact .refl _

theorem poll_withLayers (rest : List Input) : SameButHiddenPixels (poll rest s) (poll rest (s.withLayers m1 m2)) := by
  cases hb : s.busy with
  | true =>
    rw [poll_busy hb, poll_busy (s := s.withLayers m1 m2) hb]
    exact .of_notReady hr rfl
  | false =>
    rw [poll_idle hb, poll_idle (s := s.withLayers m1 m2) hb]
    exact .of_notReady hr rfl

theorem performInput_withLayers (x : Input) (rest : List Input) :
    AnswersAlike (performInput x rest s) (performInput x rest (s.withLayers m1 m2)) := by
  cases x with
  | access a => exact performAccess_withLayers (s := { s with inputs := rest }) hr m1 m2 a
  | wait => exact .next (poll_withLayers hr m1 m2 rest)
  | hardReset => exact .refl _
  | accessInReset a => exact .refl _

theorem takeTurn_withLayers (who : Agent) :
    AnswersAlike (takeTurn who s) (takeTurn who (s.withLayers m1 m2)) := by
  have heng : (s.withLayers m1 m2).eng = s.eng := rfl
  have hin : (s.withLayers m1 m2).inputs = s.inputs := rfl
  cases who with
  | engine =>
    simp only [takeTurn, heng]
    cases s.eng with
    | idle => exact .next (.of_notReady hr rfl)
    | busy q => exact complete_withLayers hr m1 m2 q
  | host =>
    simp only [takeTurn, hin]
    cases s.inputs with
    | nil => exact .next (.of_notReady hr rfl)
    | cons x rest => exact performInput_withLayers hr m1 m2 x rest

theorem step_withLayers : AnswersAlike (step s) (step (s.withLayers m1 m2)) := by
  change AnswersAlike (takeTurn s.turn s.spendTurn) (takeTurn s.turn (s.withLayers m1 m2).spendTurn)
  rw [State.spendTurn_withLayers]
  exact takeTurn_withLayers (s.spendTurn_ready.trans hr) m1 m2 s.turn

end Hidden

/-- Settles O55: without a display no operation looks at the layers, and INIT and the resets replace them. -/
theorem hiddenPixelsAreUnobservable : Obligations.HiddenPixelsAreUnobservable := by
  intro s s' h
  rcases h.eq_or_withLayers with rfl | ⟨hr, m1, m2, rfl⟩
  · exact ⟨rfl, AnswersAlike.refl _⟩
  · exact ⟨observe_withLayers hr m1 m2, step_withLayers hr m1 m2⟩

/-! ## Reads while a command is held -/

/-- While BUSY = 1 a read of a register with free bits records the value and uses up a free value (log entry 6). -/
theorem performAccess_read_free {s : State} {off : Nat} (hb : s.busy = true) (h1 : off < 0x40) (h2 : off % 4 = 0)
    (hfree : (regAt off).hasFreeBits = true) :
    performAccess (.read (s.cfg.base + off) .w32) s =
      .next { s with
        reads := ⟨off, s.readReg (regAt off) (Config.draw s.draws)⟩ :: s.reads, draws := s.draws + 1 } := by
  rw [performAccess_read h1 h2]
  simp [State.hostRead, hb, hfree]

/-- STATUS while BUSY = 1, with READY and ERR free (70_reset_and_hazards.md R306). -/
theorem readReg_status_busy {s : State} (hb : s.busy = true) (d : Word) :
    s.readReg .status d = statusBits true (d.getLsbD 1) s.ovr (d.extractLsb' 4 4) := by
  simp [State.readReg, State.statusWhileBusy, hb]

/-- Settles O17: a read with free bits draws, the others are exact. -/
theorem busyReadsReturnFreeValues : Obligations.BusyReadsReturnFreeValues := by
  refine fun s hb => ⟨?_, ?_, ?_⟩
  · have hfree (r : Reg) (hreg : r = .size ∨ r = .info ∨ r = .result) (d : Word) : s.readReg r d = d := by
      rcases hreg with rfl | rfl | rfl <;> exact if_pos hb
    rintro off (rfl | rfl | rfl) <;> rw [performAccess_read_free hb (by decide) rfl rfl, hfree _ (by decide)]
  · refine ⟨_, performAccess_read_free hb (by decide) rfl rfl, ?_⟩
    obtain ⟨hbusy, hready, hovr, -, herr, -⟩ := statusBits_fields true ((Config.draw s.draws).getLsbD 1) s.ovr
      ((Config.draw s.draws).extractLsb' 4 4)
    rw [show regAt 0x04 = .status from rfl, readReg_status_busy hb]
    exact ⟨hbusy, hovr, hready, herr⟩
  · intro off w hmem
    simp only [List.mem_cons, Prod.mk.injEq, List.not_mem_nil, or_false] at hmem
    rcases hmem with ⟨rfl, rfl⟩ | ⟨rfl, rfl⟩ | ⟨rfl, rfl⟩ | ⟨rfl, rfl⟩ | ⟨rfl, rfl⟩ | ⟨rfl, rfl⟩ <;>
      exact performAccess_read_exact (by decide) rfl rfl

/-! ## The end of a host program -/

/-- A completion leaves the engine Idle and does not touch what the end of a program asks for. -/
theorem complete_hostSide {q : Latch} {s t : State} (h : complete q s = .next t) :
    t.eng = .idle ∧ t.inputs = s.inputs ∧ t.unconfirmed = s.unconfirmed := by
  rcases complete_cases h with ⟨-, -, rfl⟩ | ⟨i, u, -, hu, rfl⟩
  · exact ⟨rfl, rfl, rfl⟩
  · exact ⟨rfl, (congrArg State.inputs (exec_frame hu) :), (congrArg State.unconfirmed (exec_frame hu) :)⟩

theorem not_ended_of_unconfirmed {s : State} (h : s.unconfirmed = true) : s.ended = false := by
  simp [State.ended, h]

theorem State.ended_step {s t : State} (hs : s.ended = true) (h : step s = .next t) : t.ended = true := by
  obtain ⟨hin, hun⟩ := State.ended_iff.mp hs
  rcases step_cases h with ⟨q, -, -, hc⟩ | ⟨x, rest, -, hcons, hp⟩ | ⟨-, -, rfl⟩
  · obtain ⟨-, hinputs, hunconf⟩ := complete_hostSide hc
    rw [State.spendTurn_inputs] at hinputs
    rw [State.spendTurn_unconfirmed] at hunconf
    exact State.ended_iff.mpr ⟨hinputs ▸ hin, hunconf.trans hun⟩
  · rw [hcons] at hin
    cases x with
    | hardReset =>
      cases hp
      exact State.ended_iff.mpr ⟨fun y hy => hin y (List.mem_cons_of_mem _ hy), s.spendTurn_unconfirmed.trans hun⟩
    | access | wait | accessInReset => exact absurd (hin _ List.mem_cons_self) (by simp [Input.byHost])
  · exact hs

/-! ### What takes the mark of a CMD write away -/

/-- `t` is left by a STATUS read of `s` that returned BUSY = 0. -/
def ReadsIdle (s t : State) : Prop :=
  s.eng = .idle ∧ ∃ v : Word, t.reads = ⟨0x04, v⟩ :: s.reads ∧ v.getLsbD 0 = false

theorem hostRead_status_readsIdle {s : State} (hb : s.busy = false) : ReadsIdle s (s.hostRead 0x04) := by
  obtain ⟨hbit, -⟩ := statusFields_readReg s (Config.draw s.draws)
  exact ⟨State.not_busy_iff.mp hb, _, rfl, hbit.trans hb⟩

theorem hostRead_unconfirmed_or {s : State} (hs : s.unconfirmed = true) (off : Nat) :
    (s.hostRead off).unconfirmed = true ∨ ReadsIdle s (s.hostRead off) := by
  cases hb : s.busy with
  | true => exact .inl (by simp [hs, hb])
  | false =>
    by_cases hreg : regAt off = .status
    · obtain rfl := eq_offset_of_regAt hreg (by decide)
      exact .inr (hostRead_status_readsIdle hb)
    · exact .inl (by simp [hs, hreg])

theorem writeReg_unconfirmed {s : State} (hs : s.unconfirmed = true) (r : Reg) (v : Word) :
    (s.writeReg r v).unconfirmed = true := by
  cases r with
  | ctrl =>
    change (if v.getLsbD 0 then s.deviceReset else s).unconfirmed = true
    split <;> exact hs
  | status =>
    change (if v.getLsbD 2 then { s with ovr := false } else s).unconfirmed = true
    split <;> exact hs
  | cmd => exact s.issue_unconfirmed v
  | size | info | arg0 | arg1 | arg2 | arg3 | result | reserved => exact hs

theorem performInput_unconfirmed_or {x : Input} {rest : List Input} {s t : State} (hs : s.unconfirmed = true)
    (h : performInput x rest s = .next t) : t.unconfirmed = true ∨ ReadsIdle s t := by
  cases x with
  | access a =>
    rcases performAccess_cases h with ⟨off, -, -, -, rfl⟩ | ⟨off, v, -, -, -, rfl⟩
    · exact hostRead_unconfirmed_or (s := { s with inputs := rest }) hs off
    · exact .inl (writeReg_unconfirmed (s := { s with inputs := rest }) hs _ v)
  | wait =>
    cases h
    cases hb : s.busy with
    | true =>
      rw [poll_busy hb]
      exact hostRead_unconfirmed_or hs 0x04
    | false =>
      rw [poll_idle hb]
      exact .inr (hostRead_status_readsIdle hb)
  | hardReset => cases h; exact .inl hs
  | accessInReset a => cases h

/-- A step keeps the mark of a CMD write, or is a STATUS read that returns BUSY = 0. -/
theorem step_unconfirmed_or {s t : State} (h : step s = .next t) (hs : s.unconfirmed = true) :
    t.unconfirmed = true ∨ ReadsIdle s t := by
  have hs' : s.spendTurn.unconfirmed = true := s.spendTurn_unconfirmed.trans hs
  rcases step_cases h with ⟨q, -, -, hc⟩ | ⟨x, rest, -, -, hp⟩ | ⟨-, -, rfl⟩
  · exact .inl ((complete_hostSide hc).2.2.trans hs')
  · refine (performInput_unconfirmed_or hs' hp).imp_right fun hidle => ?_
    rwa [ReadsIdle, State.spendTurn_eng, State.spendTurn_reads] at hidle
  · exact .inl hs

/-! ### A held command keeps its mark -/

theorem commandsCounted_of_idle {s : State} (h : s.eng = .idle) : s.commandsCounted :=
  fun hb => absurd (hb.symm.trans (State.not_busy_iff.mpr h)) (by decide)

theorem State.commandsCounted.hostRead {s : State} (hs : s.commandsCounted) (off : Nat) :
    (s.hostRead off).commandsCounted := by
  intro hb
  have hb' : s.busy = true := hb
  simp [hs hb', hb']

theorem State.commandsCounted.writeReg {s : State} (hs : s.commandsCounted) (r : Reg) (v : Word) :
    (s.writeReg r v).commandsCounted := by
  cases r with
  | ctrl =>
    change (if v.getLsbD 0 then s.deviceReset else s).commandsCounted
    split
    · exact commandsCounted_of_idle rfl
    · exact hs
  | status =>
    change (if v.getLsbD 2 then { s with ovr := false } else s).commandsCounted
    split <;> exact hs
  | cmd => exact fun _ => s.issue_unconfirmed v
  | size | info | arg0 | arg1 | arg2 | arg3 | result | reserved => exact hs

theorem State.commandsCounted.performInput {x : Input} {rest : List Input} {s t : State} (hs : s.commandsCounted)
    (h : performInput x rest s = .next t) : t.commandsCounted := by
  have hrest : ({ s with inputs := rest } : State).commandsCounted := hs
  cases x with
  | access a =>
    rcases performAccess_cases h with ⟨off, -, -, -, rfl⟩ | ⟨off, v, -, -, -, rfl⟩
    · exact hrest.hostRead off
    · exact hrest.writeReg (regAt off) v
  | wait =>
    cases h
    cases hb : s.busy with
    | true => rw [poll_busy hb]; exact hs.hostRead 0x04
    | false => rw [poll_idle hb]; exact commandsCounted_of_idle (State.not_busy_iff.mp hb)
  | hardReset => cases h; exact commandsCounted_of_idle rfl
  | accessInReset a => cases h

theorem State.commandsCounted.step {s t : State} (hs : s.commandsCounted) (h : step s = .next t) :
    t.commandsCounted := by
  rcases step_cases h with ⟨q, -, -, hc⟩ | ⟨x, rest, -, -, hp⟩ | ⟨-, -, rfl⟩
  · exact commandsCounted_of_idle (complete_hostSide hc).1
  · have hspend : s.spendTurn.commandsCounted := by rw [State.spendTurn_eq]; exact hs
    exact hspend.performInput hp
  · exact hs

theorem State.commandsCounted.idle_of_ended {s : State} (hs : s.commandsCounted) (h : s.ended = true) :
    s.eng = .idle := by
  refine State.not_busy_iff.mp (Bool.eq_false_iff.mpr fun hb => ?_)
  exact absurd h (Bool.eq_false_iff.mp (not_ended_of_unconfirmed (hs hb)))

/-! ### What the end shows -/

theorem layerPixels_getElem? {n k : Nat} (h : k < n) (m : Memory) : (layerPixels n m)[k]? = some (Memory.read m k) := by
  simp [layerPixels, h]

theorem rowMajor_lt {W H x y : Nat} (hx : x < W) (hy : y < H) : y * W + x < W * H :=
  idx_natCast W x y ▸ idx_lt (inBounds_natCast.mpr ⟨hx, hy⟩)

/-- Settles O60: only `State.issue` sets the mark of a CMD write and only a STATUS read that returns BUSY = 0 clears it,
so a held command has it. -/
theorem programsEndWithAStatusRead : Obligations.ProgramsEndWithAStatusRead := by
  refine ⟨fun s v => ⟨_, performAccess_write v (by decide) rfl, not_ended_of_unconfirmed (s.issue_unconfirmed v)⟩,
    fun s he hin => ⟨_, performAccess_read (by decide) rfl, ?_⟩, fun s x hx hhost => ?_,
    fun _ _ => State.ended_step, fun s t h hs ht => ?_, commandsCounted_of_idle rfl, fun _ _ hs => hs.step,
    fun _ hs => hs.idle_of_ended, fun s hr => if_neg (Bool.eq_false_iff.mp hr), fun s x y hr hx hy => ?_⟩
  · exact State.ended_iff.mpr ⟨hin, by simp [State.not_busy_iff.mpr he, regAt]⟩
  · refine Bool.eq_false_iff.mpr fun hend => ?_
    exact absurd (hhost.symm.trans ((State.ended_iff.mp hend).1 x hx)) (by decide)
  · exact (step_unconfirmed_or h hs).resolve_left (Bool.eq_false_iff.mp ht)
  · have hlt := rowMajor_lt hx hy
    exact ⟨_, if_pos hr, layerPixels_getElem? hlt s.fb1, layerPixels_getElem? hlt s.fb2⟩

end Sys2Proof.Machine
